-- ==== Sys2Proof/Word.lean ====
section
/-! DEFINITION. The word types of the block (spec/00_scope.md R9, "Fixed widths"). -/

namespace Sys2Proof

/-- A colour component, a brightness, a buffer byte or a wire byte: 8 bits (R9). -/
abbrev Byte := BitVec 8

/-- A pixel count, an index, a hue: 16 bits (R9). -/
abbrev Half := BitVec 16

/-- A packed colour or a response's data: 32 bits (R9, R32). -/
abbrev Colour := BitVec 32

/-- A command word: 64 bits (R51). -/
abbrev Word := BitVec 64

end Sys2Proof
end

