-- ==== Sys2Proof/Config.lean ====
section
/-! DEFINITION. What one elaboration of the block fixes (spec/00_scope.md R9) and the constants of its ports (R33). -/

namespace Sys2Proof

/-- The six channel orders, named letter by letter after the colour in slots 0, 1, 2 (R9, R36). -/
inductive ChannelOrder where
  | rgb
  | rbg
  | grb
  | gbr
  | brg
  | bgr
  deriving DecidableEq, Repr

/-- A transport selection (R22, R87): serial peripheral `k`, or bit-banging with data pad `d` and clock pad `c`. -/
inductive Transport where
  | hw (k : Byte)
  | sw (d c : Byte)
  deriving DecidableEq, Repr

/-- The fields of the 17-bit register TXSEL that a selection stands for (R19): TXKIND, 0 for HW and 1 for SW. -/
def Transport.txKind : Transport → BitVec 1
  | .hw _ => 0
  | .sw _ _ => 1

/-- TXA (R19): the peripheral, or the data pad. -/
def Transport.txA : Transport → Byte
  | .hw k => k
  | .sw d _ => d

/-- TXB (R19): 0 for HW, or the clock pad. -/
def Transport.txB : Transport → Byte
  | .hw _ => 0
  | .sw _ c => c

namespace Config

/-- The elaboration parameters (R9). None changes after elaboration.
`spiClkHz` and `swPhaseCycles` set a rate and a spacing: timing, on which no rule of the model depends (R131). -/
structure Params where
  nMax : Nat
  nInit : Nat
  order : ChannelOrder
  txInit : Transport
  pSpi : Nat
  pPins : Nat
  spiClkHz : Nat
  swPhaseCycles : Nat
  gamma8 : Vector Byte 256
  deriving DecidableEq, Repr

/-- The entries of the default gamma table of R71, in order of the index. -/
def gammaDefaultEntries : List Nat :=
  [0, 0, 0, 0, 0, 0, 0, 0, 0, 0, 0, 0, 0, 0, 0, 0,
   0, 0, 0, 0, 0, 0, 0, 0, 1, 1, 1, 1, 1, 1, 1, 1] ++
  [1, 1, 1, 1, 2, 2, 2, 2, 2, 2, 2, 2, 3, 3, 3, 3,
   3, 3, 4, 4, 4, 4, 5, 5, 5, 5, 5, 6, 6, 6, 6, 7] ++
  [7, 7, 8, 8, 8, 9, 9, 9, 10, 10, 10, 11, 11, 11, 12, 12,
   13, 13, 13, 14, 14, 15, 15, 16, 16, 17, 17, 18, 18, 19, 19, 20] ++
  [20, 21, 21, 22, 22, 23, 24, 24, 25, 25, 26, 27, 27, 28, 29, 29,
   30, 31, 31, 32, 33, 34, 34, 35, 36, 37, 38, 38, 39, 40, 41, 42] ++
  [42, 43, 44, 45, 46, 47, 48, 49, 50, 51, 52, 53, 54, 55, 56, 57,
   58, 59, 60, 61, 62, 63, 64, 65, 66, 68, 69, 70, 71, 72, 73, 75] ++
  [76, 77, 78, 80, 81, 82, 84, 85, 86, 88, 89, 90, 92, 93, 94, 96,
   97, 99, 100, 102, 103, 105, 106, 108, 109, 111, 112, 114, 115, 117, 119, 120] ++
  [122, 124, 125, 127, 129, 130, 132, 134, 136, 137, 139, 141, 143, 145, 146, 148,
   150, 152, 154, 156, 158, 160, 162, 164, 166, 168, 170, 172, 174, 176, 178, 180] ++
  [182, 184, 186, 188, 191, 193, 195, 197, 199, 202, 204, 206, 209, 211, 213, 215,
   218, 220, 223, 225, 227, 230, 232, 235, 237, 240, 242, 245, 247, 250, 252, 255]

/-- The default gamma table (R71). -/
def gammaDefault : Vector Byte 256 := ⟨⟨gammaDefaultEntries.map (BitVec.ofNat 8)⟩, by decide +kernel⟩

/-- The elaboration `State.reset` is of: the parameters spec/95_test_vectors.md uses unless a vector says otherwise
(N_MAX = 64, ORDER = RGB, P_SPI = 2, P_PINS = 8, TX_INIT = HW(0), the default table, and N = 8 of its section 2.7).
DESIGN CHOICE, unsafe for a claim that rests on these values (log entry 1); every claim of this package is over all parameters. -/
def vectorParams : Params where
  nMax := 64
  nInit := 8
  order := .rgb
  txInit := .hw 0
  pSpi := 2
  pPins := 8
  spiClkHz := 1
  swPhaseCycles := 1
  gamma8 := gammaDefault

/-- The constant output `spi_msb_first` (R33): most significant bit first. -/
def spiMsbFirst : BitVec 1 := 1

/-- The constant output `spi_cpol` (R33): the clock idles low. -/
def spiCpol : BitVec 1 := 0

/-- The constant output `spi_cpha` (R33): data valid at the rising edge. -/
def spiCpha : BitVec 1 := 0

end Config

end Sys2Proof
end

