-- ==== Sys2Proof/Syntax.lean ====
section
/-! DEFINITION. The commands of the block, one constructor per row of spec/opcode_table.json (R54).
Operands have the widths of the fields of R52, so every term is a command that has a word (R53). -/

namespace Sys2Proof

/-- The sixteen commands of DSB-1 (R54). -/
inductive Instr where
  /-- COLOR r, g, b (R64) -/
  | color (r g b : Byte)
  /-- COLORHSV hue, sat, val (R69) -/
  | colorhsv (hue : Half) (sat val : Byte)
  /-- GAMMA32 c (R72) -/
  | gamma32 (c : Colour)
  /-- RESIZE n (R73) -/
  | resize (len : Half)
  /-- SETPIX i, r, g, b (R75) -/
  | setpix (idx : Half) (r g b : Byte)
  /-- SETPIXC i, c (R76); bits 31:24 of `c` are part of the word and have no effect (R57) -/
  | setpixc (idx : Half) (c : Colour)
  /-- GETPIX i (R77) -/
  | getpix (idx : Half)
  /-- FILL c, first, count (R79) -/
  | fill (c : BitVec 24) (first count : Half)
  /-- CLEAR (R80) -/
  | clear
  /-- NUMPIX (R74) -/
  | numpix
  /-- SETBRI b (R85) -/
  | setbri (b : Byte)
  /-- GETBRI (R86) -/
  | getbri
  /-- BEGIN (R90) -/
  | beginTx
  /-- SETTXHW k (R91) -/
  | settxhw (per : Byte)
  /-- SETTXSW data_pin, clock_pin (R92) -/
  | settxsw (dpin cpin : Byte)
  /-- SHOW (R103) -/
  | showFrame
  deriving DecidableEq, Repr

/-- The names of the assembler (R58), and RENDER, the source's name for SHOW (R59). -/
inductive Mnemonic where
  | color | colorhsv | gamma32 | resize | setpix | setpixc | getpix | fill | clear | numpix
  | setbri | getbri | begin | settxhw | settxsw | showFrame | render
  deriving DecidableEq, Repr

/-- An assembly line once its literals are read (R58): a mnemonic and its operands, in the order R58 gives. -/
structure AsmLine where
  mnemonic : Mnemonic
  operands : List Nat
  deriving DecidableEq, Repr

end Sys2Proof
end

