-- ==== Sys2Proof/WellFormed.lean ====
section
/-! DEFINITION. What is well formed: a transport selection (R19), an elaboration (R9) and an assembly line (R58).
A term of `Instr` needs no check: its operands have exactly the widths of their fields (R52, R53). -/

namespace Sys2Proof

/-- A selection TXSEL may hold (R19): HW(k) with k < P_SPI; SW(d, c) with d, c < P_PINS and d ≠ c. -/
def Transport.wf (pSpi pPins : Nat) : Transport → Bool
  | .hw k => k.toNat < pSpi
  | .sw d c => d.toNat < pPins && c.toNat < pPins && d != c

/-- The ranges of R9: "A model refuses an elaboration whose parameters are outside these ranges".
ORDER and GAMMA8 are in range by their types. -/
def Config.Params.wf (p : Config.Params) : Bool :=
  decide (p.nMax ≤ 65535) && decide (1 ≤ p.nInit) && decide (p.nInit ≤ 65535) &&
  decide (p.pSpi ≤ 256) && decide (2 ≤ p.pPins) && decide (p.pPins ≤ 256) &&
  decide (0 < p.spiClkHz) && decide (1 ≤ p.swPhaseCycles) && p.txInit.wf p.pSpi p.pPins

/-- The widths of a mnemonic's operands, in the order of R58. The colour of FILL may be any 32-bit value (R58). -/
def Mnemonic.operandWidths : Mnemonic → List Nat
  | .color => [8, 8, 8]
  | .colorhsv => [16, 8, 8]
  | .gamma32 => [32]
  | .resize => [16]
  | .setpix => [16, 8, 8, 8]
  | .setpixc => [16, 32]
  | .getpix => [16]
  | .fill => [32, 16, 16]
  | .clear | .numpix | .getbri | .begin | .showFrame | .render => []
  | .setbri => [8]
  | .settxhw => [8]
  | .settxsw => [8, 8]

/-- The trailing operands a pseudo-instruction may leave out, with the values they then take (R59). -/
def Mnemonic.defaults : Mnemonic → List Nat
  | .colorhsv => [255, 255]
  | .fill => [0, 0]
  | _ => []

/-- Each operand fits the field it is for (R58: "An operand that does not fit its field is an assembly error"). -/
def operandsFit : List Nat → List Nat → Bool
  | [], _ => true
  | _ :: _, [] => false
  | v :: vs, w :: ws => decide (v < 2 ^ w) && operandsFit vs ws

/-- An assembly line is well formed: it has as many operands as R58 lists, less at most those R59 gives a default,
and each fits its field. -/
def AsmLine.wf (l : AsmLine) : Bool :=
  decide (l.mnemonic.operandWidths.length ≤ l.operands.length + l.mnemonic.defaults.length) &&
  operandsFit l.operands l.mnemonic.operandWidths

end Sys2Proof
end

