-- ==== Sys2Proof/Decode.lean ====
section
/-! DEFINITION. The command word (spec/30_encoding.md): its fields, the opcode table, the decoder and the encoder. -/

namespace Sys2Proof

/-! ### The fields of R52 -/

def fOpc (w : Word) : Byte := w.extractLsb' 56 8
def fIdx (w : Word) : Half := w.extractLsb' 40 16
def fFirst (w : Word) : Half := w.extractLsb' 40 16
def fCount (w : Word) : Half := w.extractLsb' 24 16
def fC24 (w : Word) : BitVec 24 := w.extractLsb' 0 24
def fC32 (w : Word) : Colour := w.extractLsb' 0 32
def fR (w : Word) : Byte := w.extractLsb' 16 8
def fG (w : Word) : Byte := w.extractLsb' 8 8
def fB (w : Word) : Byte := w.extractLsb' 0 8
def fLen (w : Word) : Half := w.extractLsb' 0 16
def fPer (w : Word) : Byte := w.extractLsb' 0 8
def fDpin (w : Word) : Byte := w.extractLsb' 8 8
def fCpin (w : Word) : Byte := w.extractLsb' 0 8
def fHue (w : Word) : Half := w.extractLsb' 16 16
def fSat (w : Word) : Byte := w.extractLsb' 8 8
def fVal (w : Word) : Byte := w.extractLsb' 0 8
def fBri8 (w : Word) : Byte := w.extractLsb' 0 8

/-- A row of the opcode map (R54): `W` is the row's command exactly when `W & mask = pattern`. -/
structure OpRow where
  mask : Word
  pattern : Word
  build : Word → Instr

/-- `W & mask = pattern` (R54). -/
def OpRow.covers (row : OpRow) (w : Word) : Bool := w &&& row.mask == row.pattern

/-- The opcode map (R54), in its order. -/
def opTable : List OpRow :=
  [⟨0xFFFFFFFFFF000000, 0x0100000000000000, fun w => .color (fR w) (fG w) (fB w)⟩,
   ⟨0xFFFFFFFF00000000, 0x0200000000000000, fun w => .colorhsv (fHue w) (fSat w) (fVal w)⟩,
   ⟨0xFFFFFFFF00000000, 0x0300000000000000, fun w => .gamma32 (fC32 w)⟩,
   ⟨0xFFFFFFFFFFFF0000, 0x1000000000000000, fun w => .resize (fLen w)⟩,
   ⟨0xFF0000FFFF000000, 0x1100000000000000, fun w => .setpix (fIdx w) (fR w) (fG w) (fB w)⟩,
   ⟨0xFF0000FF00000000, 0x1200000000000000, fun w => .setpixc (fIdx w) (fC32 w)⟩,
   ⟨0xFF0000FFFFFFFFFF, 0x1300000000000000, fun w => .getpix (fIdx w)⟩,
   ⟨0xFF00000000000000, 0x1400000000000000, fun w => .fill (fC24 w) (fFirst w) (fCount w)⟩,
   ⟨0xFFFFFFFFFFFFFFFF, 0x1500000000000000, fun _ => .clear⟩,
   ⟨0xFFFFFFFFFFFFFFFF, 0x1600000000000000, fun _ => .numpix⟩,
   ⟨0xFFFFFFFFFFFFFF00, 0x2000000000000000, fun w => .setbri (fBri8 w)⟩,
   ⟨0xFFFFFFFFFFFFFFFF, 0x2100000000000000, fun _ => .getbri⟩,
   ⟨0xFFFFFFFFFFFFFFFF, 0x3000000000000000, fun _ => .beginTx⟩,
   ⟨0xFFFFFFFFFFFFFF00, 0x3100000000000000, fun w => .settxhw (fPer w)⟩,
   ⟨0xFFFFFFFFFFFF0000, 0x3200000000000000, fun w => .settxsw (fDpin w) (fCpin w)⟩,
   ⟨0xFFFFFFFFFFFFFFFF, 0x3300000000000000, fun _ => .showFrame⟩]

/-- The two kinds of illegal encoding (R56). -/
inductive Reject where
  /-- the opcode is in no row of R54 -/
  | unassignedOpcode (opc : Byte)
  /-- the opcode is listed and a reserved bit of its format is 1 -/
  | reservedBitSet (opc : Byte)
  deriving DecidableEq, Repr

/-- Decoding, total on all words (R55). -/
def decode (w : Word) : Except Reject Instr :=
  match opTable.find? (fun row => row.covers w) with
  | some row => .ok (row.build w)
  | none =>
    if opTable.any (fun row => fOpc row.pattern == fOpc w) then .error (.reservedBitSet (fOpc w))
    else .error (.unassignedOpcode (fOpc w))

/-- The word of a command, each format as R52 lays it out, bit 63 first. -/
def encode : Instr → Word
  | .color r g b => 0x01#8 ++ 0#32 ++ r ++ g ++ b
  | .colorhsv hue sat val => 0x02#8 ++ 0#24 ++ hue ++ sat ++ val
  | .gamma32 c => 0x03#8 ++ 0#24 ++ c
  | .resize len => 0x10#8 ++ 0#40 ++ len
  | .setpix idx r g b => 0x11#8 ++ idx ++ 0#16 ++ r ++ g ++ b
  | .setpixc idx c => 0x12#8 ++ idx ++ 0#8 ++ c
  | .getpix idx => 0x13#8 ++ idx ++ 0#40
  | .fill c first count => 0x14#8 ++ first ++ count ++ c
  | .clear => 0x15#8 ++ 0#56
  | .numpix => 0x16#8 ++ 0#56
  | .setbri b => 0x20#8 ++ 0#48 ++ b
  | .getbri => 0x21#8 ++ 0#56
  | .beginTx => 0x30#8 ++ 0#56
  | .settxhw per => 0x31#8 ++ 0#48 ++ per
  | .settxsw dpin cpin => 0x32#8 ++ 0#40 ++ dpin ++ cpin
  | .showFrame => 0x33#8 ++ 0#56

/-- The decoder on a word numbered as spec/opcode_table.json numbers it: one 64-bit word on a parallel port (R31, R51), so
bit 0 of the table is bit 0 of `cmd_word`, and the bits above `nbits` are 0. -/
def decodeTableWord (nbits w : Nat) : Option Instr :=
  match decode (BitVec.ofNat 64 (w % 2 ^ nbits)) with
  | .ok i => some i
  | .error _ => none

end Sys2Proof
end

