-- ==== Sys2Proof/Machine/State.lean ====
section
/-! DEFINITION. The state of the block as plain data (spec/10_state.md), why a step can stop, and reset (R119). -/

namespace Sys2Proof.Machine

/-- The direction a pad is set to (R12): OUT is driven, IN is high impedance. -/
inductive PadMode where
  | output
  | input
  deriving DecidableEq, Repr

/-- A write of one of the block's outputs, and the wire event it records (R12, R25). -/
inductive OutEvent where
  /-- SpiOpen(k): `spi_open[k]` goes to 1 -/
  | spiOpen (k : Byte)
  /-- SpiClose(k): `spi_open[k]` goes to 0 -/
  | spiClose (k : Byte)
  /-- SpiByte(k, x): byte x handed to peripheral k and fully shifted out -/
  | spiByte (k : Byte) (x : Byte)
  /-- PadMode(p, m): pad p driven or high impedance -/
  | padMode (p : Byte) (m : PadMode)
  /-- PadWrite(p, v): the output level of pad p -/
  | padWrite (p : Byte) (v : Bool)
  deriving DecidableEq, Repr

/-- An entry of the wire trace (R12). -/
inductive WireEvent where
  /-- an output was written -/
  | out (e : OutEvent)
  /-- Reset: reset was applied (R119) -/
  | reset
  deriving DecidableEq, Repr

/-- The two statuses a response can have (R107). -/
inductive Status where
  | ok
  | illegal
  deriving DecidableEq, Repr

/-- An entry of the response trace (R12, R32). -/
structure Response where
  status : Status
  data : Colour
  deriving DecidableEq, Repr

/-- One primitive effect of a command's pseudocode (R13). A command is a list of these, done in order. -/
inductive MicroOp where
  /-- `N <- n`; the buffer is then the 3n bytes below address 3n (R24) -/
  | setN (n : Half)
  /-- `BRI <- b` -/
  | setBri (b : Byte)
  /-- `TXSEL <- t` -/
  | setTx (t : Transport)
  /-- `ACTIVE <- 1` -/
  | setActive
  /-- `MemWrite(a, 1, v)` -/
  | memWrite (a : Nat) (v : Byte)
  /-- an output is written and its event traced (R25) -/
  | drive (e : OutEvent)
  deriving DecidableEq, Repr

/-- What the block is doing between acceptance and response (R27, R28): the effects still to come, how many were done, and
the response that ends it, none for the clear of the buffer after a reset (R119). Holding the effects still to come is the
model's form of the framer's position (log entry 4). -/
structure Flight where
  isShow : Bool
  done : Nat
  pending : List MicroOp
  answer : Option Response
  deriving DecidableEq, Repr

/-- BUSY and the SHOW engine (R27, R28): `idle` is BUSY = 0. -/
inductive Engine where
  | idle
  | running (f : Flight)
  deriving DecidableEq, Repr

/-- What the outside does next (R30 to R33; log entry 2).
`command` and `reset` are the transaction level of R8; `accept`, `tick` and `rst` its cycle level. -/
inductive Input where
  /-- the host presents a word and, if it is accepted, the command runs to its response, every handshake completing -/
  | command (w : Word)
  /-- reset is applied and the clear of the buffer completes -/
  | reset
  /-- the host presents a word at one rising edge -/
  | accept (w : Word)
  /-- the block does its next effect; `spiReady` is `spi_tx_ready` -/
  | tick (spiReady : Bool)
  /-- a rising edge with `rst` = 1 -/
  | rst
  deriving DecidableEq, Repr

/-- The buffer's bytes, as listed cells in rising address order, none of them 0; an unlisted byte reads 0 (log entry 5). -/
abbrev Memory := List Host.Cell

/-- Everything the spec gives the block to hold (R19, R24, R25, R27, R28, R32, R12), the inputs still to come and the
parameters of the elaboration (the model's own fields, log entries 1 and 2). -/
structure State where
  cfg : Config.Params
  n : Half
  bri : Byte
  tx : Transport
  active : Bool
  buf : Memory
  spiOpen : List Bool
  padOe : List Bool
  padOut : List Bool
  engine : Engine
  rspPort : Option Response
  wire : List WireEvent
  rsp : List Response
  inputs : List Input
  deriving DecidableEq, Repr

/-- The accesses the spec says have no place to go. Safe: no state a run reaches raises one, since every command checks its
operands first (R44, R108) and TXSEL never holds an illegal value (R19). -/
inductive Fault where
  /-- raised by a buffer write at an address ≥ 3N, which is not state (R24, R44); safe -/
  | bufferAddress (a : Nat)
  /-- raised by driving a serial peripheral k ≥ P_SPI (R25); safe -/
  | noSuchPeripheral (k : Byte)
  /-- raised by driving a pad p ≥ P_PINS (R25); safe -/
  | noSuchPad (p : Byte)
  deriving DecidableEq, Repr

/-- Why the model does not run a step. -/
inductive Refusal where
  /-- raised by `exec` for an instruction without a meaning yet (none in this model); safe -/
  | notModelled (mnemonic : String)
  /-- raised by `step` for parameters outside the ranges of R9: "A model refuses an elaboration whose parameters are outside
  these ranges" (K4); safe -/
  | badElaboration
  deriving DecidableEq, Repr

/-- The value of N after reset (R119): N_INIT if N_INIT ≤ N_MAX, else 0. -/
def resetCount (p : Config.Params) : Half := if p.nInit ≤ p.nMax then BitVec.ofNat 16 p.nInit else 0

/-- The block of elaboration `p` right after its first reset, the clear of the buffer completed (R119, R121). -/
def State.resetOf (p : Config.Params) : State where
  cfg := p
  n := resetCount p
  bri := 0
  tx := p.txInit
  active := false
  buf := []
  spiOpen := List.replicate p.pSpi false
  padOe := List.replicate p.pPins false
  padOut := List.replicate p.pPins false
  engine := .idle
  rspPort := none
  wire := [.reset]
  rsp := []
  inputs := []

/-- The machine right after reset (R119), of the elaboration of log entry 1. -/
def State.reset : State := State.resetOf Config.vectorParams

end Sys2Proof.Machine
end

