-- ==== Sys2Proof/Machine/Flags.lean ====
section
/-! DEFINITION. The block has no flags (R17); the one condition a command reports is the status of its response (R105, R107).
Here: the status codes, the response port (R32), and the views of BUSY and the serial port (R27, R33). -/

namespace Sys2Proof.Machine

/-- The status codes of R107: 0 = OK, 1 = ILLEGAL. -/
def Status.code : Status → BitVec 2
  | .ok => 0
  | .illegal => 1

/-- The response of an illegal command (R105). -/
def illegalResponse : Response := ⟨.illegal, 0⟩

/-- The response of a command that ends with `Respond(OK, d)` (R13). -/
def okResponse (d : Colour) : Response := ⟨.ok, d⟩

/-- The output `rsp_valid` (R32). -/
def State.rspValid (s : State) : BitVec 1 := if s.rspPort.isSome then 1 else 0

/-- The output `rsp_status`, 0 while `rsp_valid` is 0 (R32). -/
def State.rspStatus (s : State) : BitVec 2 :=
  match s.rspPort with
  | some r => r.status.code
  | none => 0

/-- The output `rsp_data`, 0 while `rsp_valid` is 0 (R32). -/
def State.rspData (s : State) : Colour :=
  match s.rspPort with
  | some r => r.data
  | none => 0

/-- The effects the engine has still to do. -/
def Engine.pending : Engine → List MicroOp
  | .idle => []
  | .running f => f.pending

/-- `BUSY` (R27). -/
def State.busy (s : State) : Bool :=
  match s.engine with
  | .idle => false
  | .running _ => true

/-- The level of `rst` while an input stands on the ports (R30): 1 with `Input.rst` and `Input.reset` (log entry 2). -/
def Input.rstLevel : Input → Bool
  | .rst => true
  | .reset => true
  | .command _ => false
  | .accept _ => false
  | .tick _ => false

/-- The input `rst` (R30): that of the next input, and 0 with none left. -/
def State.rst (s : State) : Bool := s.inputs.head?.any Input.rstLevel

/-- The output `cmd_ready` = not BUSY and not rst (R27). -/
def State.cmdReady (s : State) : Bool := !s.busy && !s.rst

/-- The serial port's outputs (R33): `some (sel, byte)` while `spi_tx_valid` = 1, and nothing while it is 0. -/
def State.spiTx (s : State) : Option (Byte × Byte) :=
  match s.engine.pending with
  | .drive (.spiByte k x) :: _ => some (k, x)
  | _ => none

end Sys2Proof.Machine
end

