-- ==== Sys2Proof/Machine/Operands.lean ====
section
/-! DEFINITION. Operand forms: packed colours (R61, R62), channel-order offsets and byte addresses (R35, R36), the range of
FILL (R79) and the operand checks of the transport switches (R91, R92). -/

namespace Sys2Proof.Machine

/-- `pack(r, g, b)` = `r<<16 | g<<8 | b` (R61). -/
def pack (r g b : Byte) : Colour := (r.setWidth 32 <<< 16) ||| (g.setWidth 32 <<< 8) ||| b.setWidth 32

/-- The red component of `unpack(c)`, bits 23:16 (R62). -/
def unpackR (c : Colour) : Byte := c.extractLsb' 16 8

/-- The green component of `unpack(c)`, bits 15:8 (R62). -/
def unpackG (c : Colour) : Byte := c.extractLsb' 8 8

/-- The blue component of `unpack(c)`, bits 7:0 (R62). -/
def unpackB (c : Colour) : Byte := c.extractLsb' 0 8

/-- The slot of red in each order (R36). -/
def offR : ChannelOrder → Nat
  | .rgb => 0 | .rbg => 0 | .grb => 1 | .gbr => 2 | .brg => 1 | .bgr => 2

/-- The slot of green in each order (R36). -/
def offG : ChannelOrder → Nat
  | .rgb => 1 | .rbg => 2 | .grb => 0 | .gbr => 0 | .brg => 2 | .bgr => 1

/-- The slot of blue in each order (R36). -/
def offB : ChannelOrder → Nat
  | .rgb => 2 | .rbg => 1 | .grb => 2 | .gbr => 1 | .brg => 0 | .bgr => 0

/-- The address of slot `slot` of pixel `i` (R35). -/
def byteAddr (i slot : Nat) : Nat := 3 * i + slot

/-- The pixel FILL stops before (R79): N when COUNT = 0, else FIRST + COUNT, computed exactly, clipped to N. -/
def fillEnd (first count n : Nat) : Nat := if count = 0 then n else min (first + count) n

/-- The pixels FILL writes, in order: FIRST .. end - 1, none if FIRST ≥ N (R79). -/
def fillRange (first count n : Nat) : List Nat :=
  if first < n then List.range' first (fillEnd first count n - first) else []

/-- SETTXHW names a peripheral that exists (R91, D18). -/
def perLegal (p : Config.Params) (per : Byte) : Bool := decide (per.toNat < p.pSpi)

/-- SETTXSW names two different pads that exist (R92, D17). -/
def pinsLegal (p : Config.Params) (dpin cpin : Byte) : Bool :=
  !(decide (p.pPins ≤ dpin.toNat) || decide (p.pPins ≤ cpin.toNat) || dpin == cpin)

end Sys2Proof.Machine
end

