-- ==== Sys2Proof/Machine/Ops.lean ====
section
/-! DEFINITION. The named operations of R13 over buffer, registers and outputs, the command as a list of effects, the ILLEGAL
outcome (R105) and reset (R119). -/

namespace Sys2Proof.Machine

/-! ### The buffer as a canonical list of cells -/

/-- The form of a buffer: addresses strictly rising, and no cell equal to what an unlisted address reads as. -/
def Memory.wf : Memory → Bool
  | [] => true
  | (a, v) :: m => v != 0 && m.all (fun c => decide (a < c.1)) && Memory.wf m

/-- `MemRead(a, 1)` (R13): an unlisted byte reads 0, as reset, RESIZE and CLEAR leave it (R119, R73, R80). -/
def Memory.read : Memory → Nat → Byte
  | [], _ => 0
  | (b, v) :: m, a => if a = b then v else Memory.read m a

/-- `MemWrite(a, 1, v)` (R13), keeping the canonical form. -/
def Memory.write : Memory → Nat → Byte → Memory
  | [], a, v => if v = 0 then [] else [(a, v)]
  | (b, x) :: m, a, v =>
    if a < b then (if v = 0 then (b, x) :: m else (a, v) :: (b, x) :: m)
    else if a = b then (if v = 0 then m else (a, v) :: m)
    else (b, x) :: Memory.write m a v

/-- The bytes below address `limit`; the others are not state (R24). -/
def Memory.below (m : Memory) (limit : Nat) : Memory := m.filter (fun c => decide (c.1 < limit))

/-- The byte at address `a` of BUF. -/
def State.byte (s : State) (a : Nat) : Byte := Memory.read s.buf a

/-- The channel order of the elaboration (R36). -/
def State.order (s : State) : ChannelOrder := s.cfg.order

/-! ### Outputs -/

/-- `spi_open[k]` (R25). -/
def State.spiOpenAt (s : State) (k : Nat) : Bool := s.spiOpen.getD k false

/-- `pad_oe[p]` (R25). -/
def State.padOeAt (s : State) (p : Nat) : Bool := s.padOe.getD p false

/-- `pad_out[p]` (R25). -/
def State.padOutAt (s : State) (p : Nat) : Bool := s.padOut.getD p false

/-- `Trace(e)` for an output event (R13). -/
def State.trace (s : State) (e : OutEvent) : State := { s with wire := s.wire ++ [.out e] }

/-- Write one output and record its event (R25). -/
def drive (e : OutEvent) (s : State) : Except Fault State :=
  match e with
  | .spiOpen k =>
    if k.toNat < s.cfg.pSpi then .ok (State.trace { s with spiOpen := s.spiOpen.set k.toNat true } e)
    else .error (.noSuchPeripheral k)
  | .spiClose k =>
    if k.toNat < s.cfg.pSpi then .ok (State.trace { s with spiOpen := s.spiOpen.set k.toNat false } e)
    else .error (.noSuchPeripheral k)
  | .spiByte k _ =>
    if k.toNat < s.cfg.pSpi then .ok (State.trace s e) else .error (.noSuchPeripheral k)
  | .padMode p m =>
    if p.toNat < s.cfg.pPins then .ok (State.trace { s with padOe := s.padOe.set p.toNat (m == .output) } e)
    else .error (.noSuchPad p)
  | .padWrite p v =>
    if p.toNat < s.cfg.pPins then .ok (State.trace { s with padOut := s.padOut.set p.toNat v } e)
    else .error (.noSuchPad p)

/-! ### Effects -/

/-- Do one effect. -/
def applyOp (op : MicroOp) (s : State) : Except Fault State :=
  match op with
  | .setN n => .ok { s with n := n, buf := Memory.below s.buf (3 * n.toNat) }
  | .setBri b => .ok { s with bri := b }
  | .setTx t => .ok { s with tx := t }
  | .setActive => .ok { s with active := true }
  | .memWrite a v =>
    if a < 3 * s.n.toNat then .ok { s with buf := Memory.write s.buf a v } else .error (.bufferAddress a)
  | .drive e => drive e s

/-- Do effects in order. -/
def runOps : List MicroOp → State → Except Fault State
  | [], s => .ok s
  | op :: ops, s =>
    match applyOp op s with
    | .ok t => runOps ops t
    | .error f => .error f

/-- A command once its operands are checked and its reads are made: its effects in order, and its response. -/
structure Plan where
  ops : List MicroOp
  answer : Response
  isShow : Bool := false
  deriving DecidableEq, Repr

/-- A command without effect that responds OK with `d`. -/
def Plan.answering (d : Colour) : Plan where
  ops := []
  answer := okResponse d

/-- A command that does `ops` and responds (OK, 0). -/
def Plan.doing (ops : List MicroOp) : Plan where
  ops := ops
  answer := okResponse 0

/-- `raise Illegal(W)`: no effect, and the response (ILLEGAL, 0) (R105). This is the only exceptional outcome, and there is no
return from it: the next command runs as ever (R109, R110). -/
def Plan.illegal : Plan where
  ops := []
  answer := illegalResponse

/-- `Respond(st, d)` (R13): the entry joins the response trace and is presented on the response port (R32). -/
def State.respond (s : State) (r : Response) : State := { s with rsp := s.rsp ++ [r], rspPort := some r }

/-- A command as one atomic step (R8, R46): all its effects in order, then its response. -/
def Plan.run (p : Plan) (s : State) : Host.Outcome State Fault Refusal :=
  match runOps p.ops s with
  | .ok t => .next (t.respond p.answer)
  | .error f => .fault f

/-! ### Transports (R88, R89, R97 to R99) -/

/-- `Activate(t)` (R88). -/
def activate : Transport → List MicroOp
  | .hw k => [.drive (.spiOpen k)]
  | .sw d c =>
    [.drive (.padMode d .output), .drive (.padMode c .output), .drive (.padWrite d false), .drive (.padWrite c false)]

/-- `Teardown(t)` (R89). -/
def teardown : Transport → List MicroOp
  | .hw k => [.drive (.spiClose k)]
  | .sw d c => [.drive (.padMode d .input), .drive (.padMode c .input)]

/-- The three pad writes of one bit (R99). -/
def bitWrites (d c : Byte) (v : Bool) : List OutEvent := [.padWrite d v, .padWrite c true, .padWrite c false]

/-- `BitBang(d, c, x)` (R99): bits 7 down to 0. -/
def bitBang (d c x : Byte) : List OutEvent :=
  [7, 6, 5, 4, 3, 2, 1, 0].flatMap (fun j => bitWrites d c (x.getLsbD j))

/-- The output events of one frame byte on a transport (R98, R99). -/
def deliver (t : Transport) (x : Byte) : List OutEvent :=
  match t with
  | .hw k => [.spiByte k x]
  | .sw d c => bitBang d c x

/-- `Emit(x)` (R97): nothing while ACTIVE = 0. -/
def emit (s : State) (x : Byte) : List MicroOp :=
  if s.active then (deliver s.tx x).map MicroOp.drive else []

/-! ### Buffer writes -/

/-- The three writes of a pixel in channel order (R75). -/
def pixelWrites (o : ChannelOrder) (i : Nat) (r g b : Byte) : List MicroOp :=
  [.memWrite (byteAddr i (offR o)) r, .memWrite (byteAddr i (offG o)) g, .memWrite (byteAddr i (offB o)) b]

/-- Zero the first `3 * count` bytes, in rising order (R73, R80, R119). -/
def zeroWrites (count : Nat) : List MicroOp := (List.range (3 * count)).map (fun a => .memWrite a 0)

/-! ### Reset (R119, R121, R125) -/

/-- A rising edge with `rst` = 1 (R119): whatever was in flight is dropped without a response (R125), `Reset` joins the wire
trace, every register and output takes its reset value, and BUSY is 1 with the clear of the buffer to come. The traces are
kept (R12), the parameters are no state of the block (R121). -/
def State.resetEdge (s : State) : State :=
  { State.resetOf s.cfg with
    buf := Memory.below s.buf (3 * (resetCount s.cfg).toNat)
    engine := .running ⟨false, 0, zeroWrites (resetCount s.cfg).toNat, none⟩
    wire := s.wire ++ [.reset]
    rsp := s.rsp
    inputs := s.inputs }

/-- Reset with the clear of the buffer completed (R119): the transaction level of `State.resetEdge`. -/
def State.resetDone (s : State) : State :=
  { State.resetOf s.cfg with
    wire := s.wire ++ [.reset]
    rsp := s.rsp
    inputs := s.inputs }

end Sys2Proof.Machine
end

