-- ==== Sys2Proof/Machine/Brightness.lean ====
section
/-! DEFINITION. The brightness scaler: `scale`, SETBRI, GETBRI (spec/42_brightness.md). BRI holds the public value (C1). -/

namespace Sys2Proof.Machine

/-- `scale(x, b)` (R82): x when b = 0, else bits 15:8 of the product. -/
def scale (x b : Byte) : Byte := if b = 0 then x else BitVec.ofNat 8 ((x.toNat * b.toNat) >>> 8)

/-- SETBRI (R85). -/
def planSetbri (b : Byte) : Plan := Plan.doing [.setBri b]

def execSetbri (b : Byte) (s : State) : Host.Outcome State Fault Refusal := (planSetbri b).run s

/-- GETBRI (R86). -/
def planGetbri (s : State) : Plan := Plan.answering (s.bri.setWidth 32)

def execGetbri (s : State) : Host.Outcome State Fault Refusal := (planGetbri s).run s

end Sys2Proof.Machine
end

