-- ==== Sys2Proof/Machine/Color.lean ====
section
/-! DEFINITION. The colour converter: COLOR, COLORHSV, GAMMA32 (spec/40_color.md). -/

namespace Sys2Proof.Machine

/-- COLOR (R64). -/
def planColor (r g b : Byte) : Plan := Plan.answering (pack r g b)

def execColor (r g b : Byte) (s : State) : Host.Outcome State Fault Refusal := (planColor r g b).run s

/-- The remapped hue h', 0 to 1530 (R65). -/
def hueRemap (hue : Nat) : Nat := (hue * 1530 + 32768) / 65536

/-- The hexcone ramp `raw(h')` (R66): red, green, blue. -/
def hexcone (h : Nat) : Nat × Nat × Nat :=
  if h < 255 then (255, h, 0)
  else if h < 510 then (510 - h, 255, 0)
  else if h < 765 then (0, 255, h - 510)
  else if h < 1020 then (0, 1020 - h, 255)
  else if h < 1275 then (h - 1020, 0, 255)
  else if h < 1530 then (255, 0, 1530 - h)
  else (255, 0, 0)

/-- Saturation and value applied to a raw component (R67). -/
def satVal (x sat val : Nat) : Nat := ((((x * (sat + 1)) >>> 8) + (255 - sat)) * (val + 1)) >>> 8

/-- One channel of COLORHSV, narrowed to the 8 bits it fits in (R67). -/
def hsvChannel (x : Nat) (sat val : Byte) : Byte := BitVec.ofNat 8 (satVal x sat.toNat val.toNat)

/-- The packed colour of a hue, saturation and value (R69). -/
def hsvColour (hue : Half) (sat val : Byte) : Colour :=
  let raw := hexcone (hueRemap hue.toNat)
  pack (hsvChannel raw.1 sat val) (hsvChannel raw.2.1 sat val) (hsvChannel raw.2.2 sat val)

/-- COLORHSV (R69). -/
def planColorhsv (hue : Half) (sat val : Byte) : Plan := Plan.answering (hsvColour hue sat val)

def execColorhsv (hue : Half) (sat val : Byte) (s : State) : Host.Outcome State Fault Refusal :=
  (planColorhsv hue sat val).run s

/-- `GAMMA8[x]` (R70). -/
def gamma (p : Config.Params) (x : Byte) : Byte := p.gamma8[x.toNat]'x.isLt

/-- The table on each of the four bytes, the high byte included (R72). -/
def gammaColour (p : Config.Params) (c : Colour) : Colour :=
  gamma p (c.extractLsb' 24 8) ++ gamma p (c.extractLsb' 16 8) ++ gamma p (c.extractLsb' 8 8) ++ gamma p (c.extractLsb' 0 8)

/-- GAMMA32 (R72). -/
def planGamma32 (c : Colour) (s : State) : Plan := Plan.answering (gammaColour s.cfg c)

def execGamma32 (c : Colour) (s : State) : Host.Outcome State Fault Refusal := (planGamma32 c s).run s

end Sys2Proof.Machine
end

