-- ==== Sys2Proof/Machine/Pixel.lean ====
section
/-! DEFINITION. The pixel buffer commands: RESIZE, NUMPIX, SETPIX, SETPIXC, GETPIX, FILL, CLEAR (spec/41_pixel_buffer.md). -/

namespace Sys2Proof.Machine

/-- RESIZE (R73): LEN > N_MAX is the allocation failure of D8, which leaves the empty strip and responds OK. -/
def planResize (len : Half) (s : State) : Plan :=
  if s.cfg.nMax < len.toNat then Plan.doing [.setN 0]
  else Plan.doing (.setN len :: zeroWrites len.toNat)

def execResize (len : Half) (s : State) : Host.Outcome State Fault Refusal := (planResize len s).run s

/-- NUMPIX (R74). -/
def planNumpix (s : State) : Plan := Plan.answering (s.n.setWidth 32)

def execNumpix (s : State) : Host.Outcome State Fault Refusal := (planNumpix s).run s

/-- SETPIX (R75). -/
def planSetpix (idx : Half) (r g b : Byte) (s : State) : Plan :=
  Plan.doing (if idx.toNat < s.n.toNat then pixelWrites s.order idx.toNat r g b else [])

def execSetpix (idx : Half) (r g b : Byte) (s : State) : Host.Outcome State Fault Refusal :=
  (planSetpix idx r g b s).run s

/-- SETPIXC (R76): bits 31:24 of `c` are ignored. -/
def planSetpixc (idx : Half) (c : Colour) (s : State) : Plan :=
  Plan.doing (if idx.toNat < s.n.toNat then pixelWrites s.order idx.toNat (unpackR c) (unpackG c) (unpackB c) else [])

def execSetpixc (idx : Half) (c : Colour) (s : State) : Host.Outcome State Fault Refusal := (planSetpixc idx c s).run s

/-- GETPIX (R77). -/
def planGetpix (idx : Half) (s : State) : Plan :=
  Plan.answering
    (if idx.toNat < s.n.toNat then
      pack (s.byte (byteAddr idx.toNat (offR s.order))) (s.byte (byteAddr idx.toNat (offG s.order)))
        (s.byte (byteAddr idx.toNat (offB s.order)))
    else 0)

def execGetpix (idx : Half) (s : State) : Host.Outcome State Fault Refusal := (planGetpix idx s).run s

/-- FILL (R79). -/
def planFill (c : BitVec 24) (first count : Half) (s : State) : Plan :=
  let c32 := c.setWidth 32
  Plan.doing ((fillRange first.toNat count.toNat s.n.toNat).flatMap
    (fun i => pixelWrites s.order i (unpackR c32) (unpackG c32) (unpackB c32)))

def execFill (c : BitVec 24) (first count : Half) (s : State) : Host.Outcome State Fault Refusal :=
  (planFill c first count s).run s

/-- CLEAR (R80). -/
def planClear (s : State) : Plan := Plan.doing (zeroWrites s.n.toNat)

def execClear (s : State) : Host.Outcome State Fault Refusal := (planClear s).run s

end Sys2Proof.Machine
end

