-- ==== Sys2Proof/Machine/Show.lean ====
section
/-! DEFINITION. The protocol encoder and framer: the frame and SHOW (spec/43_protocol_transport.md). -/

namespace Sys2Proof.Machine

/-- The end-marker length `E(N)` (R94, C2). -/
def endMarkerLength (n : Nat) : Nat := (n + 15) / 16

/-- The four bytes of pixel `i`: the marker, never scaled, and the three scaled bytes in slot order (R95, R96). -/
def pixelFrame (s : State) (i : Nat) : List Byte :=
  [0xFF, scale (s.byte (byteAddr i 0)) s.bri, scale (s.byte (byteAddr i 1)) s.bri, scale (s.byte (byteAddr i 2)) s.bri]

/-- `frame(BUF, N, BRI)` (R95); with N = 0 there is none. -/
def frame (s : State) : List Byte :=
  if s.n = 0 then []
  else List.replicate 4 0 ++ (List.range s.n.toNat).flatMap (pixelFrame s) ++
    List.replicate (endMarkerLength s.n.toNat) 0xFF

/-- SHOW (R103): every byte of the frame is emitted, in order. -/
def planShow (s : State) : Plan where
  ops := (frame s).flatMap (emit s)
  answer := okResponse 0
  isShow := true

def execShow (s : State) : Host.Outcome State Fault Refusal := (planShow s).run s

/-- Where a SHOW stands (R28): the byte of the frame that is next and, on a software transport, which bit (7 down to 0) and
which of its three pad writes (0, 1, 2) is next. -/
structure FramePos where
  byte : Nat
  bit : Nat
  write : Nat
  deriving DecidableEq, Repr

/-- The framer's position while a SHOW executes, read off the count of events done (R28, R99). -/
def State.framePos (s : State) : Option FramePos :=
  match s.engine with
  | .idle => none
  | .running f =>
    if f.isShow then
      match s.tx with
      | .hw _ => some ⟨f.done, 7, 0⟩
      | .sw _ _ => some ⟨f.done / 24, 7 - f.done % 24 / 3, f.done % 3⟩
    else none

end Sys2Proof.Machine
end

