-- ==== Sys2Proof/Machine/Transport.lean ====
section
/-! DEFINITION. The transport mux: BEGIN, SETTXHW, SETTXSW (spec/43_protocol_transport.md). -/

namespace Sys2Proof.Machine

/-- BEGIN (R90). -/
def planBegin (s : State) : Plan := Plan.doing (activate s.tx ++ [.setActive])

def execBegin (s : State) : Host.Outcome State Fault Refusal := (planBegin s).run s

/-- The switch to transport `t` (R91, R92): the old one is torn down if it is active, then the new one activated. -/
def switchTo (t : Transport) (s : State) : List MicroOp :=
  (if s.active then teardown s.tx else []) ++ [.setTx t] ++ activate t ++ [.setActive]

/-- SETTXHW (R91). -/
def planSettxhw (per : Byte) (s : State) : Plan :=
  if perLegal s.cfg per then Plan.doing (switchTo (.hw per) s) else Plan.illegal

def execSettxhw (per : Byte) (s : State) : Host.Outcome State Fault Refusal := (planSettxhw per s).run s

/-- SETTXSW (R92). -/
def planSettxsw (dpin cpin : Byte) (s : State) : Plan :=
  if pinsLegal s.cfg dpin cpin then Plan.doing (switchTo (.sw dpin cpin) s) else Plan.illegal

def execSettxsw (dpin cpin : Byte) (s : State) : Host.Outcome State Fault Refusal := (planSettxsw dpin cpin s).run s

end Sys2Proof.Machine
end

