-- ==== Sys2Proof/Machine/Dispatch.lean ====
section
/-! DEFINITION. The meaning of each command, one arm per constructor of Instr. -/

namespace Sys2Proof.Machine

def exec (i : Instr) (s : State) : Host.Outcome State Fault Refusal :=
  match i with
  | .color r g b => Sys2Proof.Machine.execColor r g b s
  | .colorhsv hue sat val => Sys2Proof.Machine.execColorhsv hue sat val s
  | .gamma32 c => Sys2Proof.Machine.execGamma32 c s
  | .resize len => Sys2Proof.Machine.execResize len s
  | .setpix idx r g b => Sys2Proof.Machine.execSetpix idx r g b s
  | .setpixc idx c => Sys2Proof.Machine.execSetpixc idx c s
  | .getpix idx => Sys2Proof.Machine.execGetpix idx s
  | .fill c first count => Sys2Proof.Machine.execFill c first count s
  | .clear => Sys2Proof.Machine.execClear s
  | .numpix => Sys2Proof.Machine.execNumpix s
  | .setbri b => Sys2Proof.Machine.execSetbri b s
  | .getbri => Sys2Proof.Machine.execGetbri s
  | .beginTx => Sys2Proof.Machine.execBegin s
  | .settxhw per => Sys2Proof.Machine.execSettxhw per s
  | .settxsw dpin cpin => Sys2Proof.Machine.execSettxsw dpin cpin s
  | .showFrame => Sys2Proof.Machine.execShow s

end Sys2Proof.Machine
end

