-- ==== Sys2Proof/Machine/Ports.lean ====
section
/-! DEFINITION. What one input does: acceptance of a word (R31, R55), the command as one atomic step (R8), and the cycle level,
where a command's effects are done one by one, waiting for the peripheral (R98), until its response, or a reset (R125). -/

namespace Sys2Proof.Machine

/-- The plan of a command: what `exec` runs as one step, for the cycle level to run effect by effect. -/
def plan (i : Instr) (s : State) : Plan :=
  match i with
  | .color r g b => planColor r g b
  | .colorhsv hue sat val => planColorhsv hue sat val
  | .gamma32 c => planGamma32 c s
  | .resize len => planResize len s
  | .setpix idx r g b => planSetpix idx r g b s
  | .setpixc idx c => planSetpixc idx c s
  | .getpix idx => planGetpix idx s
  | .fill c first count => planFill c first count s
  | .clear => planClear s
  | .numpix => planNumpix s
  | .setbri b => planSetbri b
  | .getbri => planGetbri s
  | .beginTx => planBegin s
  | .settxhw per => planSettxhw per s
  | .settxsw dpin cpin => planSettxsw dpin cpin s
  | .showFrame => planShow s

/-- The plan of a word (R55): its command's, or ILLEGAL (R105). -/
def planWord (w : Word) (s : State) : Plan :=
  match decode w with
  | .ok i => plan i s
  | .error _ => Plan.illegal

/-- The state after the cycle in which a response was presented: the port is back at 0 (R32). -/
def State.portsQuiet (s : State) : State := { s with rspPort := none }

/-- A word accepted and run to its response (R8, R46). -/
def runWord (w : Word) (s : State) : Host.Outcome State Fault Refusal :=
  match decode w with
  | .ok i => exec i s
  | .error _ => .next (s.respond illegalResponse)

/-- A word accepted: BUSY goes to 1 and its effects are to come (R27, R31). -/
def startWord (w : Word) (s : State) : State :=
  let p := planWord w s
  { s with engine := .running ⟨p.isShow, 0, p.ops, some p.answer⟩ }

/-- An effect that waits for the peripheral (R98): the others do not. -/
def MicroOp.waits : MicroOp → Bool
  | .drive (.spiByte _ _) => true
  | _ => false

/-- The end of a flight: BUSY goes to 0 and the response, if there is one, is presented (R27, R32). -/
def State.finish (s : State) (answer : Option Response) : State :=
  match answer with
  | some r => { s with engine := .idle }.respond r
  | none => { s with engine := .idle }

/-- The block's next effect. A byte waits, without a timeout, for `spi_tx_ready` (R98, R126). -/
def tick (spiReady : Bool) (s : State) : Host.Outcome State Fault Refusal :=
  match s.engine with
  | .idle => .next s.portsQuiet
  | .running f =>
    match f.pending with
    | [] => .next (s.finish f.answer)
    | op :: ops =>
      if op.waits && !spiReady then .next s
      else
        match applyOp op s with
        | .ok t => .next { t with engine := .running { f with done := f.done + 1, pending := ops } }
        | .error e => .fault e

/-- One input, already taken off the list. A word is presented with `rst` = 0, so it is accepted where BUSY = 0 (R27, R31);
while BUSY = 1 it is not, and one that is then withdrawn has no effect. A host that holds it presents it again. -/
def react (inp : Input) (s : State) : Host.Outcome State Fault Refusal :=
  match inp with
  | .command w => if s.busy then .next s else runWord w s.portsQuiet
  | .reset => .next s.resetDone
  | .accept w => if s.busy then .next s else .next (startWord w s.portsQuiet)
  | .tick spiReady => tick spiReady s
  | .rst => .next s.resetEdge

end Sys2Proof.Machine
end

