-- ==== Sys2Proof/Machine/Step.lean ====
section
/-! DEFINITION. One step: the next input is taken off the list and acted on; with none, the block waits (R120). -/

namespace Sys2Proof.Machine

/-- One step. An elaboration whose parameters are outside the ranges of R9 is refused (K4). -/
def step (s : State) : Host.Outcome State Fault Refusal :=
  if s.cfg.wf then
    match s.inputs with
    | [] => .next s
    | inp :: rest => react inp { s with inputs := rest }
  else .refused .badElaboration

/-- The state with that word presented next on the command port of a block that is not busy (R31), so that the very next step
accepts and runs it: the block fetches no instructions (R16), the host supplies them (log entry 6). -/
def State.withFetchWord (s : State) (nbits w : Nat) : State :=
  { s with
    inputs := .command (BitVec.ofNat 64 (w % 2 ^ nbits)) :: s.inputs
    engine := .idle }

end Sys2Proof.Machine
end

