-- ==== Sys2Proof/Machine/Assembler.lean ====
section
/-! DEFINITION. The assembler (R58) and its pseudo-instructions (R59): from a line's characters to a command word. -/

namespace Sys2Proof.Machine

/-- A mnemonic as it is spelt (R58, R59). -/
def spelling : Mnemonic → List Char
  | .color => ['C', 'O', 'L', 'O', 'R']
  | .colorhsv => ['C', 'O', 'L', 'O', 'R', 'H', 'S', 'V']
  | .gamma32 => ['G', 'A', 'M', 'M', 'A', '3', '2']
  | .resize => ['R', 'E', 'S', 'I', 'Z', 'E']
  | .setpix => ['S', 'E', 'T', 'P', 'I', 'X']
  | .setpixc => ['S', 'E', 'T', 'P', 'I', 'X', 'C']
  | .getpix => ['G', 'E', 'T', 'P', 'I', 'X']
  | .fill => ['F', 'I', 'L', 'L']
  | .clear => ['C', 'L', 'E', 'A', 'R']
  | .numpix => ['N', 'U', 'M', 'P', 'I', 'X']
  | .setbri => ['S', 'E', 'T', 'B', 'R', 'I']
  | .getbri => ['G', 'E', 'T', 'B', 'R', 'I']
  | .begin => ['B', 'E', 'G', 'I', 'N']
  | .settxhw => ['S', 'E', 'T', 'T', 'X', 'H', 'W']
  | .settxsw => ['S', 'E', 'T', 'T', 'X', 'S', 'W']
  | .showFrame => ['S', 'H', 'O', 'W']
  | .render => ['R', 'E', 'N', 'D', 'E', 'R']

def mnemonics : List Mnemonic :=
  [.color, .colorhsv, .gamma32, .resize, .setpix, .setpixc, .getpix, .fill, .clear, .numpix, .setbri, .getbri, .begin,
   .settxhw, .settxsw, .showFrame, .render]

/-- The value of a digit, below the base (R58: decimal or hexadecimal). -/
def digit (base : Nat) (c : Char) : Option Nat :=
  let n := c.toNat
  let v := if 48 ≤ n ∧ n ≤ 57 then n - 48 else if 97 ≤ n ∧ n ≤ 102 then n - 87 else if 65 ≤ n ∧ n ≤ 70 then n - 55 else base
  if v < base then some v else none

def digits (base : Nat) : Nat → List Char → Option Nat
  | acc, [] => some acc
  | acc, c :: cs =>
    match digit base c with
    | some v => digits base (acc * base + v) cs
    | none => none

/-- An unsigned integer literal in decimal or `0x` hexadecimal (R58). -/
def literal (cs : List Char) : Option Nat :=
  match cs with
  | [] => none
  | ['0', 'x'] => none
  | '0' :: 'x' :: ds => digits 16 0 ds
  | ds => digits 10 0 ds

def isBlank (c : Char) : Bool := c == ' ' || c == '\t'

/-- A text without the blanks around it. -/
def trimBlanks (cs : List Char) : List Char := ((cs.dropWhile isBlank).reverse.dropWhile isBlank).reverse

/-- The pieces between commas. -/
def splitCommas : List Char → List (List Char)
  | [] => [[]]
  | c :: cs =>
    if c == ',' then [] :: splitCommas cs
    else
      match splitCommas cs with
      | [] => [[c]]
      | p :: ps => (c :: p) :: ps

/-- The operands of a line: none, or literals between commas. -/
def readOperands (cs : List Char) : Option (List Nat) :=
  if cs.isEmpty then some [] else (splitCommas cs).mapM (fun piece => literal (trimBlanks piece))

/-- A line (R58): a mnemonic and its operands; `;` starts a comment to the end of the line. -/
def readLine (line : List Char) : Option AsmLine :=
  let text := trimBlanks (line.takeWhile (fun c => c != ';'))
  let name := text.takeWhile (fun c => !isBlank c)
  match mnemonics.find? (fun m => spelling m == name), readOperands (trimBlanks (text.drop name.length)) with
  | some m, some vs => some ⟨m, vs⟩
  | _, _ => none

/-- The operands with the left-out ones at their defaults (R59). -/
def allOperands (l : AsmLine) : List Nat :=
  l.operands ++
    l.mnemonic.defaults.drop (l.mnemonic.defaults.length - (l.mnemonic.operandWidths.length - l.operands.length))

/-- The command of a mnemonic and all its operands; the colour of FILL keeps its low 24 bits (R58). -/
def buildCommand : Mnemonic → List Nat → Option Instr
  | .color, [r, g, b] => some (.color (.ofNat 8 r) (.ofNat 8 g) (.ofNat 8 b))
  | .colorhsv, [hue, sat, val] => some (.colorhsv (.ofNat 16 hue) (.ofNat 8 sat) (.ofNat 8 val))
  | .gamma32, [c] => some (.gamma32 (.ofNat 32 c))
  | .resize, [n] => some (.resize (.ofNat 16 n))
  | .setpix, [i, r, g, b] => some (.setpix (.ofNat 16 i) (.ofNat 8 r) (.ofNat 8 g) (.ofNat 8 b))
  | .setpixc, [i, c] => some (.setpixc (.ofNat 16 i) (.ofNat 32 c))
  | .getpix, [i] => some (.getpix (.ofNat 16 i))
  | .fill, [c, first, count] => some (.fill (.ofNat 24 c) (.ofNat 16 first) (.ofNat 16 count))
  | .clear, [] => some .clear
  | .numpix, [] => some .numpix
  | .setbri, [b] => some (.setbri (.ofNat 8 b))
  | .getbri, [] => some .getbri
  | .begin, [] => some .beginTx
  | .settxhw, [k] => some (.settxhw (.ofNat 8 k))
  | .settxsw, [d, c] => some (.settxsw (.ofNat 8 d) (.ofNat 8 c))
  | .showFrame, [] => some .showFrame
  | .render, [] => some .showFrame
  | _, _ => none

/-- Assembly (R58, R59): the command of a well-formed line, and an assembly error otherwise. -/
def assemble (l : AsmLine) : Option Instr :=
  if l.wf then buildCommand l.mnemonic (allOperands l) else none

/-- From a line's characters to the command word. -/
def assembleText (line : List Char) : Option Word :=
  match readLine line with
  | some l => (assemble l).map encode
  | none => none

end Sys2Proof.Machine
end

