-- ==== Sys2Proof/Machine/Observe.lean ====
section
/-! DEFINITION. What is seen on the wire: the logical byte stream (R101) and the pad waveform (R100). -/

namespace Sys2Proof.Machine

/-- The output events of a piece of the wire trace, in order; what a Reset does to the pads is in `Pads.after`. -/
def outEvents (trace : List WireEvent) : List OutEvent :=
  trace.filterMap (fun e => match e with
    | .out o => some o
    | .reset => none)

/-- The bytes handed to peripheral `k` (R101, HW). -/
def spiBytes (k : Byte) (events : List OutEvent) : List Byte :=
  events.filterMap (fun e => match e with
    | .spiByte j x => if j = k then some x else none
    | _ => none)

/-- The level of pad `d` at each `PadWrite(c, 1)`, from level `v` before the first event (R101, SW). -/
def sampleBits (d c : Byte) : Bool → List OutEvent → List Bool
  | _, [] => []
  | v, .padWrite p x :: es =>
    let v' := if p = d then x else v
    if p = c && x then v' :: sampleBits d c v' es else sampleBits d c v' es
  | v, _ :: es => sampleBits d c v es

/-- Eight bits as a byte, the first the most significant (R101). -/
def byteOfBits (b7 b6 b5 b4 b3 b2 b1 b0 : Bool) : Byte := BitVec.ofBoolListBE [b7, b6, b5, b4, b3, b2, b1, b0]

/-- Bits grouped eight at a time (R101); fewer than eight at the end make no byte. -/
def groupBits : List Bool → List Byte
  | b7 :: b6 :: b5 :: b4 :: b3 :: b2 :: b1 :: b0 :: bs => byteOfBits b7 b6 b5 b4 b3 b2 b1 b0 :: groupBits bs
  | _ => []

/-- The logical byte stream a transport delivers by `events` (R101). -/
def logicalBytes (t : Transport) (events : List OutEvent) : List Byte :=
  match t with
  | .hw k => spiBytes k events
  | .sw d c => groupBits (sampleBits d c false events)

/-- The levels of all pads at one moment (R25): `pad_oe` and `pad_out`. -/
structure Pads where
  oe : List Bool
  out : List Bool
  deriving DecidableEq, Repr

/-- The pads' levels in a state. -/
def State.pads (s : State) : Pads := ⟨s.padOe, s.padOut⟩

/-- The pads' levels after one wire event (R12): a Reset forces every one to 0, and a serial event sets none. -/
def Pads.after (p : Pads) : WireEvent → Pads
  | .out (.padMode q m) => { p with oe := p.oe.set q.toNat (m == .output) }
  | .out (.padWrite q v) => { p with out := p.out.set q.toNat v }
  | .out (.spiOpen _) => p
  | .out (.spiClose _) => p
  | .out (.spiByte _ _) => p
  | .reset => ⟨p.oe.map fun _ => false, p.out.map fun _ => false⟩

/-- The pad waveform of a piece of the wire trace, from levels `p` (R100): the events that change a pad's level. -/
def waveform : Pads → List WireEvent → List WireEvent
  | _, [] => []
  | p, e :: es => if p.after e = p then waveform p es else e :: waveform (p.after e) es

end Sys2Proof.Machine
end

