-- ==== Sys2Proof/Safety.lean ====
section
/-! DEFINITION. What counts as a safe state: the invariant every step keeps (R19, R20, R24, R25, R26, R23, R44). -/

namespace Sys2Proof.Machine

/-- The pads of a selection (R22). -/
def usesPad : Transport → Nat → Bool
  | .hw _, _ => false
  | .sw d c, p => p == d.toNat || p == c.toNat

/-- The serial peripheral of a selection (R22). -/
def usesSpi : Transport → Nat → Bool
  | .hw k, j => j == k.toNat
  | .sw _ _, _ => false

/-- The parts of the state that hold at every moment, in the middle of a command too. -/
structure Sound (s : State) : Prop where
  /-- the parameters are in the ranges of R9 -/
  params : s.cfg.wf = true
  /-- N ≤ N_MAX (R19, R20) -/
  count : s.n.toNat ≤ s.cfg.nMax
  /-- TXSEL holds a legal value (R19) -/
  selection : s.tx.wf s.cfg.pSpi s.cfg.pPins = true
  /-- the buffer is in canonical form -/
  bufferForm : Memory.wf s.buf = true
  /-- no byte at index ≥ 3N is held (R24, R44) -/
  bufferRange : ∀ c ∈ s.buf, c.1 < 3 * s.n.toNat
  /-- one output bit for each peripheral and two for each pad (R25) -/
  spiWidth : s.spiOpen.length = s.cfg.pSpi
  oeWidth : s.padOe.length = s.cfg.pPins
  outWidth : s.padOut.length = s.cfg.pPins

/-- Between commands, exactly the outputs of an active selection are on (R23, R26). -/
structure OutputsMatch (s : State) : Prop where
  spi : ∀ k, s.spiOpenAt k = (s.active && usesSpi s.tx k)
  pad : ∀ p, s.padOeAt p = (s.active && usesPad s.tx p)

/-- An effect that keeps N and TXSEL legal (R19). -/
def MicroOp.legal (p : Config.Params) : MicroOp → Bool
  | .setN n => decide (n.toNat ≤ p.nMax)
  | .setTx t => t.wf p.pSpi p.pPins
  | _ => true

/-- The invariant: the state is sound, the effects still to come are legal, and doing them ends, without a fault, where the
outputs match the selection. With nothing to come (BUSY = 0) this is that the outputs match now. -/
structure Inv (s : State) : Prop where
  sound : Sound s
  legal : ∀ op ∈ s.engine.pending, op.legal s.cfg = true
  settles : ∃ t, runOps s.engine.pending s = .ok t ∧ OutputsMatch t

end Sys2Proof.Machine
end

