-- ==== Sys2Proof/Certificates/Slice0/Obligations.lean ====
section
/-! DEFINITION. The statements about the block, each from a rule of spec/. The first part names, in the spec's own words and
not by the model's functions, what the statements speak of. -/

namespace Sys2Proof.Claims

open Sys2Proof Sys2Proof.Machine

/-- The state with one response more, presented on the response port, and nothing else changed (R12, R32). -/
def answered (s : State) (r : Response) : State := { s with rsp := s.rsp ++ [r], rspPort := some r }

/-- The packed value `r<<16 | g<<8 | b` as a number (R61). -/
def packed (r g b : Byte) : Nat := r.toNat * 65536 + g.toNat * 256 + b.toNat

/-- The components in slots 0, 1, 2, letter by letter as the order is named (R36). -/
def slots (o : ChannelOrder) (r g b : Byte) : List Byte :=
  match o with
  | .rgb => [r, g, b]
  | .rbg => [r, b, g]
  | .grb => [g, r, b]
  | .gbr => [g, b, r]
  | .brg => [b, r, g]
  | .bgr => [b, g, r]

/-- Pixel `i` of the buffer holds the components (R35, R36). -/
def PixelIs (s : State) (i : Nat) (r g b : Byte) : Prop :=
  ∀ j < 3, (slots s.cfg.order r g b)[j]? = some (s.byte (3 * i + j))

/-- Every word of opcode `opc`: with its reserved bits 0 it decodes to the command its fields give, and otherwise to nothing. -/
def CommandWords (opc : Byte) (reservedZero : Word → Bool) (command : Word → Instr) : Prop :=
  ∀ w : Word, w.extractLsb' 56 8 = opc →
    (reservedZero w = true → decode w = .ok (command w)) ∧ (reservedZero w = false → ∃ e, decode w = .error e)

/-- Commands executed one after the other (R46). -/
def execAll : List Instr → State → Host.Outcome State Fault Refusal
  | [], s => .next s
  | i :: is, s =>
    match exec i s with
    | .next t => execAll is t
    | .fault f => .fault f
    | .refused r => .refused r

/-- A reset is the next input: `rst` = 1 (R30; the list of inputs is the model's, log entry 2). -/
def resetNext (inputs : List Input) : Prop := inputs.head? = some .rst ∨ inputs.head? = some .reset

/-- `k` steps. -/
def run (k : Nat) (s : State) : Host.Outcome State Fault Refusal := Sys2Proof.core.run k s

/-- `scale(x, b)` as a number (R82). -/
def scaled (x b : Byte) : Nat := if b = 0 then x.toNat else x.toNat * b.toNat / 256

/-- The bytes of the frame, place by place (R95, R96): 4 start bytes, for each pixel a marker and three scaled bytes in slot
order, and `(N + 15) div 16` end bytes (R94); no frame with N = 0. -/
def FrameBytes (s : State) (bytes : List Byte) : Prop :=
  (s.n.toNat = 0 → bytes = []) ∧
  (0 < s.n.toNat →
    bytes.length = 4 + 4 * s.n.toNat + (s.n.toNat + 15) / 16 ∧
    (∀ j < 4, bytes[j]? = some 0) ∧
    (∀ i < s.n.toNat, bytes[4 + 4 * i]? = some 0xFF ∧
      ∀ j < 3, ∃ x : Byte, bytes[4 + 4 * i + (1 + j)]? = some x ∧ x.toNat = scaled (s.byte (3 * i + j)) s.bri) ∧
    (∀ j < (s.n.toNat + 15) / 16, bytes[4 + 4 * s.n.toNat + j]? = some 0xFF))

/-- The output events that deliver one byte (R98, R99): a byte to the peripheral, or for bits 7 down to 0 the data pad set and
the clock pad pulsed high then low. -/
def delivered (t : Transport) (x : Byte) : List OutEvent :=
  match t with
  | .hw k => [.spiByte k x]
  | .sw d c => (List.range 8).flatMap (fun j => [.padWrite d (x.getLsbD (7 - j)), .padWrite c true, .padWrite c false])

/-- The events of `Activate(t)` (R88). -/
def activationEvents : Transport → List OutEvent
  | .hw k => [.spiOpen k]
  | .sw d c => [.padMode d .output, .padMode c .output, .padWrite d false, .padWrite c false]

/-- The events of `Teardown(t)` (R89). -/
def teardownEvents : Transport → List OutEvent
  | .hw k => [.spiClose k]
  | .sw d c => [.padMode d .input, .padMode c .input]

/-- Peripheral `k` is the one `t` names. -/
def namesSpi (t : Transport) (k : Nat) : Prop := ∃ p : Byte, t = .hw p ∧ k = p.toNat

/-- Pad `p` is one of the two `t` names. -/
def namesPad (t : Transport) (p : Nat) : Prop := ∃ d c : Byte, t = .sw d c ∧ (p = d.toNat ∨ p = c.toNat)

/-- The outputs after `Teardown(t)` if `on`, then `Activate(u)` (R88, R89): what the activation sets, else what the teardown
clears, else as before. -/
def OutputsSwitched (on : Prop) (t u : Transport) (s s' : State) : Prop :=
  (∀ k, (namesSpi u k → s'.spiOpenAt k = true) ∧
    (¬ namesSpi u k → on → namesSpi t k → s'.spiOpenAt k = false) ∧
    (¬ namesSpi u k → ¬ (on ∧ namesSpi t k) → s'.spiOpenAt k = s.spiOpenAt k)) ∧
  (∀ p, (namesPad u p → s'.padOeAt p = true ∧ s'.padOutAt p = false) ∧
    (¬ namesPad u p → on → namesPad t p → s'.padOeAt p = false) ∧
    (¬ namesPad u p → ¬ (on ∧ namesPad t p) → s'.padOeAt p = s.padOeAt p) ∧
    (¬ namesPad u p → s'.padOutAt p = s.padOutAt p))

/-- The registers and outputs at the values of R119, BUF and BUSY apart. -/
structure RegistersReset (p : Config.Params) (t : State) : Prop where
  spiOpen : ∀ k, t.spiOpenAt k = false
  padOe : ∀ k, t.padOeAt k = false
  padOut : ∀ k, t.padOutAt k = false
  active : t.active = false
  tx : t.tx = p.txInit
  n : t.n.toNat = if p.nInit ≤ p.nMax then p.nInit else 0
  bri : t.bri = 0
  showEngine : t.framePos = none
  rspPort : t.rspValid = 0 ∧ t.rspStatus = 0 ∧ t.rspData = 0
  spiTx : t.spiTx = none

/-- The hexcone ramp (R66), segment by segment. -/
def Ramp (h r g b : Nat) : Prop :=
  (h < 255 → r = 255 ∧ g = h ∧ b = 0) ∧
  (255 ≤ h → h < 510 → r = 510 - h ∧ g = 255 ∧ b = 0) ∧
  (510 ≤ h → h < 765 → r = 0 ∧ g = 255 ∧ b = h - 510) ∧
  (765 ≤ h → h < 1020 → r = 0 ∧ g = 1020 - h ∧ b = 255) ∧
  (1020 ≤ h → h < 1275 → r = h - 1020 ∧ g = 0 ∧ b = 255) ∧
  (1275 ≤ h → h < 1530 → r = 255 ∧ g = 0 ∧ b = 1530 - h) ∧
  (h = 1530 → r = 255 ∧ g = 0 ∧ b = 0)

/-- The inner sum of R67: a raw component with the saturation applied. -/
def satOnly (x sat : Nat) : Nat := x * (sat + 1) / 256 + (255 - sat)

/-- Saturation and value on a raw component (R67). -/
def satValued (x sat val : Nat) : Nat := satOnly x sat * (val + 1) / 256

end Sys2Proof.Claims

open Sys2Proof Sys2Proof.Machine Sys2Proof.Claims

/-! ### Encoding -/

/-- Decoding the word of any command gives the command back: no operand bit is dropped (R52 to R55). -/
def Obligations.DecodeOfEncode : Prop := ∀ i : Instr, decode (encode i) = .ok i

/-- Each word that decodes has exactly one meaning and is that command's word (R52 to R55). -/
def Obligations.EncodeOfDecode : Prop := ∀ (w : Word) (i : Instr), decode w = .ok i → encode i = w

/-- R56: the legal words are those of a listed opcode with 0 in every reserved bit of its format; any other word changes no
state, adds no wire event and is answered (ILLEGAL, 0). -/
def Obligations.LegalWordsExactly : Prop :=
  (∀ (s : State) (w : Word) (rest : List Input), s.cfg.wf = true → s.cmdReady = true → s.inputs = .command w :: rest →
    (¬ ∃ i, decode w = .ok i) → step s = .next (answered { s with inputs := rest } ⟨.illegal, 0⟩)) ∧
  ∀ w : Word, (∃ i, decode w = .ok i) ↔
    ((w.extractLsb' 56 8 = 0x01 ∧ w.extractLsb' 24 32 = 0) ∨ (w.extractLsb' 56 8 = 0x02 ∧ w.extractLsb' 32 24 = 0) ∨
     (w.extractLsb' 56 8 = 0x03 ∧ w.extractLsb' 32 24 = 0) ∨ (w.extractLsb' 56 8 = 0x10 ∧ w.extractLsb' 16 40 = 0) ∨
     (w.extractLsb' 56 8 = 0x11 ∧ w.extractLsb' 24 16 = 0) ∨ (w.extractLsb' 56 8 = 0x12 ∧ w.extractLsb' 32 8 = 0) ∨
     (w.extractLsb' 56 8 = 0x13 ∧ w.extractLsb' 0 40 = 0) ∨ w.extractLsb' 56 8 = 0x14 ∨
     (w.extractLsb' 56 8 = 0x15 ∧ w.extractLsb' 0 56 = 0) ∨ (w.extractLsb' 56 8 = 0x16 ∧ w.extractLsb' 0 56 = 0) ∨
     (w.extractLsb' 56 8 = 0x20 ∧ w.extractLsb' 8 48 = 0) ∨ (w.extractLsb' 56 8 = 0x21 ∧ w.extractLsb' 0 56 = 0) ∨
     (w.extractLsb' 56 8 = 0x30 ∧ w.extractLsb' 0 56 = 0) ∨ (w.extractLsb' 56 8 = 0x31 ∧ w.extractLsb' 8 48 = 0) ∨
     (w.extractLsb' 56 8 = 0x32 ∧ w.extractLsb' 16 40 = 0) ∨ (w.extractLsb' 56 8 = 0x33 ∧ w.extractLsb' 0 56 = 0))

/-- R55: at most one row matches a word; if one does, the word is that row's command with the fields of its format; if none
does, the word is ILLEGAL and executes as R105. -/
def Obligations.DecodeFollowsTheOneRow : Prop :=
  opTable.Pairwise (fun a b => ∀ w : Word, ¬ (w &&& a.mask = a.pattern ∧ w &&& b.mask = b.pattern)) ∧
  (∀ row ∈ opTable, ∀ w : Word, w &&& row.mask = row.pattern → decode w = .ok (row.build w)) ∧
  (∀ (s : State) (w : Word) (rest : List Input), s.cfg.wf = true → s.cmdReady = true → s.inputs = .command w :: rest →
    (∀ row ∈ opTable, w &&& row.mask ≠ row.pattern) →
    step s = .next (answered { s with inputs := rest } ⟨.illegal, 0⟩))

/-- The examples of R60 and of 95_test_vectors.md 2.7, words written out by the spec. -/
def Obligations.WordsOfTheSpecDecode : Prop :=
  decode 0x1100050000123456 = .ok (.setpix 5 0x12 0x34 0x56) ∧ decode 0x1400080005FFFFFF = .ok (.fill 0xFFFFFF 8 5) ∧
  decode 0x020000008000FFFF = .ok (.colorhsv 32768 255 255) ∧ decode 0x3200000000000304 = .ok (.settxsw 3 4) ∧
  decode 0x3300000000000000 = .ok .showFrame ∧ decode 0x0000000000000000 = .error (.unassignedOpcode 0) ∧
  decode 0x1300050000000001 = .error (.reservedBitSet 0x13)

/-! ### Assembler -/

/-- R59: the pseudo-instructions expand to the commands they stand for. -/
def Obligations.PseudoInstructionsExpand : Prop :=
  ∀ a b : Nat,
    assemble ⟨.colorhsv, [a]⟩ = assemble ⟨.colorhsv, [a, 255, 255]⟩ ∧
    assemble ⟨.colorhsv, [a, b]⟩ = assemble ⟨.colorhsv, [a, b, 255]⟩ ∧
    assemble ⟨.fill, [a]⟩ = assemble ⟨.fill, [a, 0, 0]⟩ ∧
    assemble ⟨.fill, [a, b]⟩ = assemble ⟨.fill, [a, b, 0]⟩ ∧
    assemble ⟨.render, []⟩ = assemble ⟨.showFrame, []⟩

/-- R58, operands: with every operand in its field, each form gives its command with the operands in the order of the table,
and FILL encodes only the low 24 bits of its colour. -/
def Obligations.AssemblerForms : Prop :=
  (∀ r g b : Byte, assemble ⟨.color, [r.toNat, g.toNat, b.toNat]⟩ = some (.color r g b)) ∧
  (∀ (h : Half) (s v : Byte), assemble ⟨.colorhsv, [h.toNat, s.toNat, v.toNat]⟩ = some (.colorhsv h s v)) ∧
  (∀ c : Colour, assemble ⟨.gamma32, [c.toNat]⟩ = some (.gamma32 c)) ∧
  (∀ n : Half, assemble ⟨.resize, [n.toNat]⟩ = some (.resize n)) ∧
  (∀ (i : Half) (r g b : Byte), assemble ⟨.setpix, [i.toNat, r.toNat, g.toNat, b.toNat]⟩ = some (.setpix i r g b)) ∧
  (∀ (i : Half) (c : Colour), assemble ⟨.setpixc, [i.toNat, c.toNat]⟩ = some (.setpixc i c)) ∧
  (∀ i : Half, assemble ⟨.getpix, [i.toNat]⟩ = some (.getpix i)) ∧
  (∀ (c : Colour) (first count : Half),
    assemble ⟨.fill, [c.toNat, first.toNat, count.toNat]⟩ = some (.fill (c.extractLsb' 0 24) first count)) ∧
  assemble ⟨.clear, []⟩ = some .clear ∧ assemble ⟨.numpix, []⟩ = some .numpix ∧
  (∀ b : Byte, assemble ⟨.setbri, [b.toNat]⟩ = some (.setbri b)) ∧ assemble ⟨.getbri, []⟩ = some .getbri ∧
  assemble ⟨.begin, []⟩ = some .beginTx ∧ (∀ k : Byte, assemble ⟨.settxhw, [k.toNat]⟩ = some (.settxhw k)) ∧
  (∀ d c : Byte, assemble ⟨.settxsw, [d.toNat, c.toNat]⟩ = some (.settxsw d c)) ∧
  assemble ⟨.showFrame, []⟩ = some .showFrame

/-- R58: an operand that does not fit its field is an assembly error. -/
def Obligations.AssemblerRefusesWideOperands : Prop :=
  ∀ (l : AsmLine) (j v w : Nat), l.operands[j]? = some v → l.mnemonic.operandWidths[j]? = some w → 2 ^ w ≤ v →
    assemble l = none

/-! ### Steps, responses and the ILLEGAL outcome -/

/-- A step on a presented word that decodes to `i`, the block ready, is `exec i` at the state with the input taken and the
response port back at 0 (R31, R32, R46; the list of inputs is the model's, log entry 2). -/
def Obligations.StepRunsTheDecodedCommand : Prop :=
  ∀ (s : State) (w : Word) (rest : List Input) (i : Instr), s.cfg.wf = true → s.cmdReady = true →
    s.inputs = .command w :: rest → decode w = .ok i →
    step s = exec i { s with inputs := rest, rspPort := none }

/-- R105: a word that decodes to nothing, a SETTXHW with PER ≥ P_SPI and a SETTXSW with a pad ≥ P_PINS or twice the same pad
change no register, buffer byte or output, add no wire event, respond (ILLEGAL, 0), and the next command is accepted (unless a
reset is next). -/
def Obligations.IllegalChangesNothing : Prop :=
  (∀ (s : State) (w : Word) (rest : List Input) (e : Reject), s.cfg.wf = true → s.cmdReady = true →
    s.inputs = .command w :: rest → decode w = .error e →
    step s = .next (answered { s with inputs := rest } ⟨.illegal, 0⟩) ∧
    (answered { s with inputs := rest } ⟨.illegal, 0⟩).busy = false ∧
    (¬ resetNext rest → (answered { s with inputs := rest } ⟨.illegal, 0⟩).cmdReady = true)) ∧
  (∀ (s : State) (per : Byte), s.cfg.pSpi ≤ per.toNat → exec (.settxhw per) s = .next (answered s ⟨.illegal, 0⟩)) ∧
  (∀ (s : State) (d c : Byte), s.cfg.pPins ≤ d.toNat ∨ s.cfg.pPins ≤ c.toNat ∨ d = c →
    exec (.settxsw d c) s = .next (answered s ⟨.illegal, 0⟩))

/-- R107: an accepted command gives one response, presented and traced, with status 0 or 1. It is 1 exactly when the word decodes
to nothing or fails the operand check of SETTXHW or SETTXSW, which depend on P_SPI and P_PINS alone, and then nothing else
changes. -/
def Obligations.EveryCommandHasOneStatus : Prop :=
  ∀ (s t : State) (w : Word) (rest : List Input), s.cfg.wf = true → s.cmdReady = true → s.inputs = .command w :: rest →
    step s = .next t →
    ∃ r : Response, t.rsp = s.rsp ++ [r] ∧ t.rspPort = some r ∧ (r.status.code = 0 ∨ r.status.code = 1) ∧
      (r.status.code = 1 ↔
        (∃ e, decode w = .error e) ∨
        (∃ per : Byte, decode w = .ok (.settxhw per) ∧ s.cfg.pSpi ≤ per.toNat) ∨
        (∃ d c : Byte, decode w = .ok (.settxsw d c) ∧ (s.cfg.pPins ≤ d.toNat ∨ s.cfg.pPins ≤ c.toNat ∨ d = c))) ∧
      (r.status.code = 1 → t = answered { s with inputs := rest } ⟨.illegal, 0⟩)

/-- R31: while a command executes no word is accepted, and a word withdrawn before acceptance has no effect. That an input the
block does not take is gone is the model's choice (log entry 2). -/
def Obligations.BusyAcceptsNothing : Prop :=
  ∀ (s : State) (w : Word) (rest : List Input), s.cfg.wf = true → s.busy = true →
    s.inputs = .command w :: rest ∨ s.inputs = .accept w :: rest → step s = .next { s with inputs := rest }

/-- R120: with nothing to do, the block waits; that waiting is a step that changes nothing is the model's choice (log entry 2). -/
def Obligations.BlockWaitsForItsFirstCommand : Prop :=
  ∀ s : State, s.cfg.wf = true → s.inputs = [] → step s = .next s

/-! ### Colour converter -/

/-- R64 (COLOR). -/
def Obligations.ColorResult : Prop :=
  CommandWords 0x01 (fun w => w.extractLsb' 24 32 == 0)
    (fun w => .color (w.extractLsb' 16 8) (w.extractLsb' 8 8) (w.extractLsb' 0 8)) ∧
  ∀ (s : State) (r g b : Byte), ∃ d : Colour, d.toNat = packed r g b ∧
    exec (.color r g b) s = .next (answered s ⟨.ok, d⟩)

/-- R65, R66, R67, R69 (COLORHSV): the remapped hue, the ramp (whose segments the spec adopts from general knowledge, log entry
11), saturation and value, each channel fitting 8 bits. -/
def Obligations.ColorhsvResult : Prop :=
  CommandWords 0x02 (fun w => w.extractLsb' 32 24 == 0)
    (fun w => .colorhsv (w.extractLsb' 16 16) (w.extractLsb' 8 8) (w.extractLsb' 0 8)) ∧
  ∀ (s : State) (hue : Half) (sat val : Byte), ∃ (d : Colour) (h r g b : Nat),
    h = (hue.toNat * 1530 + 32768) / 65536 ∧ hue.toNat * 1530 + 32768 ≤ 100301318 ∧ h ≤ 1530 ∧
    (hue.toNat ≤ 21 → h = 0) ∧ (65515 ≤ hue.toNat → h = 1530) ∧
    Ramp h r g b ∧ r ≤ 255 ∧ g ≤ 255 ∧ b ≤ 255 ∧
    satOnly r sat.toNat ≤ 255 ∧ satOnly g sat.toNat ≤ 255 ∧ satOnly b sat.toNat ≤ 255 ∧
    satValued r sat.toNat val.toNat ≤ 255 ∧ satValued g sat.toNat val.toNat ≤ 255 ∧ satValued b sat.toNat val.toNat ≤ 255 ∧
    d.toNat = satValued r sat.toNat val.toNat * 65536 + satValued g sat.toNat val.toNat * 256 +
      satValued b sat.toNat val.toNat ∧
    exec (.colorhsv hue sat val) s = .next (answered s ⟨.ok, d⟩)

/-- R68: saturation and value 255 give the pure hexcone colour; saturation 0 gives grey of the value; value 0 gives black. -/
def Obligations.ColorhsvConsequences : Prop :=
  ∀ (s : State) (hue : Half) (sat val : Byte),
    (∃ (d : Colour) (r g b : Nat), Ramp ((hue.toNat * 1530 + 32768) / 65536) r g b ∧
      d.toNat = r * 65536 + g * 256 + b ∧ exec (.colorhsv hue 255 255) s = .next (answered s ⟨.ok, d⟩)) ∧
    (∃ d : Colour, d.toNat = packed val val val ∧ exec (.colorhsv hue 0 val) s = .next (answered s ⟨.ok, d⟩)) ∧
    exec (.colorhsv hue sat 0) s = .next (answered s ⟨.ok, 0⟩)

/-- R72 (GAMMA32): the table on each of the four bytes, whatever table the elaboration names (R70); with the default table of
R71 (log entry 11) it is not idempotent, and 0 and 0xFFFFFFFF are fixed points. -/
def Obligations.Gamma32Result : Prop :=
  CommandWords 0x03 (fun w => w.extractLsb' 32 24 == 0) (fun w => .gamma32 (w.extractLsb' 0 32)) ∧
  (∀ (s : State) (c : Colour), ∃ d : Colour,
    (∀ j < 4, s.cfg.gamma8[(c.extractLsb' (8 * j) 8).toNat]? = some (d.extractLsb' (8 * j) 8)) ∧
    exec (.gamma32 c) s = .next (answered s ⟨.ok, d⟩)) ∧
  (∀ s : State, s.cfg.gamma8 = Config.gammaDefault →
    exec (.gamma32 0x80808080) s = .next (answered s ⟨.ok, 0x2A2A2A2A⟩) ∧
    exec (.gamma32 0x2A2A2A2A) s = .next (answered s ⟨.ok, 0x02020202⟩) ∧
    exec (.gamma32 0) s = .next (answered s ⟨.ok, 0⟩) ∧
    exec (.gamma32 0xFFFFFFFF) s = .next (answered s ⟨.ok, 0xFFFFFFFF⟩))

/-- R63: packing and unpacking are inverse. -/
def Obligations.PackUnpackInverse : Prop :=
  (∀ r g b : Byte, unpackR (pack r g b) = r ∧ unpackG (pack r g b) = g ∧ unpackB (pack r g b) = b) ∧
  (∀ c : Colour, pack (unpackR c) (unpackG c) (unpackB c) = c &&& 0x00FFFFFF)

/-! ### Pixel buffer -/

/-- R73 (RESIZE): LEN > N_MAX gives the empty strip, otherwise N = LEN; all prior pixel data is discarded and every byte is 0;
the response is (OK, 0) and nothing else changes. -/
def Obligations.ResizeResult : Prop :=
  CommandWords 0x10 (fun w => w.extractLsb' 16 40 == 0) (fun w => .resize (w.extractLsb' 0 16)) ∧
  ∀ (s : State) (len : Half), Memory.wf s.buf = true → ∃ t : State, exec (.resize len) s = .next t ∧
    t.n.toNat = (if s.cfg.nMax < len.toNat then 0 else len.toNat) ∧ (∀ a, t.byte a = 0) ∧
    t = answered { s with n := t.n, buf := t.buf } ⟨.ok, 0⟩

/-- R74 (NUMPIX): N, zero-extended; after a failed RESIZE it is 0, and it never exceeds N_MAX while N does not. -/
def Obligations.NumpixResult : Prop :=
  CommandWords 0x16 (fun w => w.extractLsb' 0 56 == 0) (fun _ => .numpix) ∧
  (∀ s : State, ∃ d : Colour, d.toNat = s.n.toNat ∧ (s.n.toNat ≤ s.cfg.nMax → d.toNat ≤ s.cfg.nMax) ∧
    exec .numpix s = .next (answered s ⟨.ok, d⟩)) ∧
  (∀ (s : State) (len : Half), s.cfg.nMax < len.toNat → ∃ t : State,
    execAll [.resize len, .numpix] s = .next t ∧ t.rspPort = some ⟨.ok, 0⟩)

/-- R75 (SETPIX): inside the strip the pixel's three bytes hold the components in channel order and every other byte is as
before; outside it no byte changes; the response is (OK, 0) and nothing else changes. -/
def Obligations.SetpixResult : Prop :=
  CommandWords 0x11 (fun w => w.extractLsb' 24 16 == 0)
    (fun w => .setpix (w.extractLsb' 40 16) (w.extractLsb' 16 8) (w.extractLsb' 8 8) (w.extractLsb' 0 8)) ∧
  ∀ (s : State) (idx : Half) (r g b : Byte), Memory.wf s.buf = true → ∃ t : State, exec (.setpix idx r g b) s = .next t ∧
    (idx.toNat < s.n.toNat → PixelIs t idx.toNat r g b) ∧
    (∀ a, a < 3 * idx.toNat ∨ 3 * idx.toNat + 3 ≤ a ∨ s.n.toNat ≤ idx.toNat → t.byte a = s.byte a) ∧
    t = answered { s with buf := t.buf } ⟨.ok, 0⟩

/-- R76 (SETPIXC): the same for the components of a packed colour, whose bits 31:24 are ignored. -/
def Obligations.SetpixcResult : Prop :=
  CommandWords 0x12 (fun w => w.extractLsb' 32 8 == 0) (fun w => .setpixc (w.extractLsb' 40 16) (w.extractLsb' 0 32)) ∧
  ∀ (s : State) (idx : Half) (c : Colour), Memory.wf s.buf = true → ∃ t : State, exec (.setpixc idx c) s = .next t ∧
    exec (.setpix idx (c.extractLsb' 16 8) (c.extractLsb' 8 8) (c.extractLsb' 0 8)) s = .next t ∧
    (idx.toNat < s.n.toNat → PixelIs t idx.toNat (c.extractLsb' 16 8) (c.extractLsb' 8 8) (c.extractLsb' 0 8)) ∧
    (∀ a, a < 3 * idx.toNat ∨ 3 * idx.toNat + 3 ≤ a ∨ s.n.toNat ≤ idx.toNat → t.byte a = s.byte a) ∧
    t = answered { s with buf := t.buf } ⟨.ok, 0⟩

/-- R77 (GETPIX): the packed components of the pixel, 0 outside the strip; nothing is written. -/
def Obligations.GetpixResult : Prop :=
  CommandWords 0x13 (fun w => w.extractLsb' 0 40 == 0) (fun w => .getpix (w.extractLsb' 40 16)) ∧
  ∀ (s : State) (idx : Half), ∃ (d : Colour) (r g b : Byte), PixelIs s idx.toNat r g b ∧
    d.toNat = (if idx.toNat < s.n.toNat then packed r g b else 0) ∧
    exec (.getpix idx) s = .next (answered s ⟨.ok, d⟩)

/-- R78: GETPIX after SETPIX, with any SETBRIs in between, gives the components; outside the strip 0, and no byte changed. -/
def Obligations.GetpixAfterSetpix : Prop :=
  ∀ (s : State) (idx : Half) (r g b : Byte) (bris : List Byte), Memory.wf s.buf = true →
    ∃ (t : State) (d : Colour),
      execAll (.setpix idx r g b :: (bris.map Instr.setbri ++ [.getpix idx])) s = .next t ∧
      t.rspPort = some ⟨.ok, d⟩ ∧ d.toNat = (if idx.toNat < s.n.toNat then packed r g b else 0) ∧
      (s.n.toNat ≤ idx.toNat → ∀ a, t.byte a = s.byte a)

/-- R79 (FILL): exactly the pixels from FIRST up to the end, N when COUNT = 0 and otherwise FIRST + COUNT clipped to N without
wrapping, hold the colour; every other byte is as before; the response is (OK, 0) and nothing else changes. -/
def Obligations.FillResult : Prop :=
  CommandWords 0x14 (fun _ => true) (fun w => .fill (w.extractLsb' 0 24) (w.extractLsb' 40 16) (w.extractLsb' 24 16)) ∧
  ∀ (s : State) (c : BitVec 24) (first count : Half), Memory.wf s.buf = true →
    ∃ (t : State) (stop : Nat), exec (.fill c first count) s = .next t ∧
      stop = (if count.toNat = 0 then s.n.toNat else min (first.toNat + count.toNat) s.n.toNat) ∧
      (∀ i, first.toNat ≤ i → i < stop → PixelIs t i (c.extractLsb' 16 8) (c.extractLsb' 8 8) (c.extractLsb' 0 8)) ∧
      (∀ a, a < 3 * first.toNat ∨ 3 * stop ≤ a → t.byte a = s.byte a) ∧
      t = answered { s with buf := t.buf } ⟨.ok, 0⟩

/-- R80 (CLEAR): every byte below 3N is 0, every other byte is as before, the response is (OK, 0) and nothing else changes;
the effect is that of FILL 0, 0, 0. -/
def Obligations.ClearResult : Prop :=
  CommandWords 0x15 (fun w => w.extractLsb' 0 56 == 0) (fun _ => .clear) ∧
  ∀ s : State, Memory.wf s.buf = true → ∃ t : State, exec .clear s = .next t ∧ exec (.fill 0 0 0) s = .next t ∧
    (∀ a, t.byte a = if a < 3 * s.n.toNat then 0 else s.byte a) ∧ t = answered { s with buf := t.buf } ⟨.ok, 0⟩

/-- R37: no command other than SETPIX, SETPIXC, FILL, CLEAR and RESIZE writes the buffer. -/
def Obligations.OnlyPixelCommandsWriteTheBuffer : Prop :=
  ∀ (i : Instr) (s t : State), exec i s = .next t →
    (∃ (idx : Half) (r g b : Byte), i = .setpix idx r g b) ∨ (∃ (idx : Half) (c : Colour), i = .setpixc idx c) ∨
    (∃ (c : BitVec 24) (first count : Half), i = .fill c first count) ∨ i = .clear ∨ (∃ len : Half, i = .resize len) ∨
    t.buf = s.buf

/-- R19, the column "written by": which commands write which register, and which write outputs (R88, R89, R99). -/
def Obligations.WritersOfRegistersAndOutputs : Prop :=
  ∀ (i : Instr) (s t : State), exec i s = .next t →
    (t.n = s.n ∨ ∃ len, i = .resize len) ∧
    (t.bri = s.bri ∨ ∃ b, i = .setbri b) ∧
    (t.tx = s.tx ∨ (∃ k, i = .settxhw k) ∨ ∃ d c, i = .settxsw d c) ∧
    (t.active = s.active ∨ i = .beginTx ∨ (∃ k, i = .settxhw k) ∨ ∃ d c, i = .settxsw d c) ∧
    (t.spiOpen = s.spiOpen ∧ t.padOe = s.padOe ∨ i = .beginTx ∨ (∃ k, i = .settxhw k) ∨ ∃ d c, i = .settxsw d c) ∧
    (t.padOut = s.padOut ∧ t.wire = s.wire ∨
      i = .showFrame ∨ i = .beginTx ∨ (∃ k, i = .settxhw k) ∨ ∃ d c, i = .settxsw d c) ∧
    t.cfg = s.cfg ∧ t.engine = s.engine ∧ t.inputs = s.inputs

/-! ### Brightness -/

/-- R81, R82: `scale` is the multiply and shift by the multiplier 256 for b = 0 and b otherwise. -/
def Obligations.ScaleIsMultiplyAndShift : Prop :=
  ∀ x b : Byte, (scale x b).toNat = x.toNat * (if b = 0 then 256 else b.toNat) / 256 ∧
    (b = 0 → scale x b = x) ∧ (b ≠ 0 → (scale x b).toNat = x.toNat * b.toNat / 256)

/-- R84, the consequences of the scale rule. -/
def Obligations.ScaleConsequences : Prop :=
  (∀ x : Byte, scale x 0 = x ∧ scale x 1 = 0 ∧ (scale x 255).toNat = x.toNat - 1 ∧ (scale x 128).toNat = x.toNat / 2) ∧
  (∀ x b : Byte, scale 0 b = 0 ∧ (scale x b).toNat ≤ x.toNat) ∧
  (∀ x y b : Byte, b ≠ 0 → x.toNat ≤ y.toNat → (scale x b).toNat ≤ (scale y b).toNat) ∧
  (∀ x b c : Byte, b ≠ 0 → b.toNat ≤ c.toNat → (scale x b).toNat ≤ (scale x c).toNat)

/-- R85 (SETBRI): BRI takes the operand, the response is (OK, 0) and nothing else changes. -/
def Obligations.SetbriResult : Prop :=
  CommandWords 0x20 (fun w => w.extractLsb' 8 48 == 0) (fun w => .setbri (w.extractLsb' 0 8)) ∧
  ∀ (s : State) (b : Byte), exec (.setbri b) s = .next (answered { s with bri := b } ⟨.ok, 0⟩)

/-- R86 (GETBRI): BRI, zero-extended, which is exactly the last SETBRI operand, and 0 after reset; nothing is written. -/
def Obligations.GetbriResult : Prop :=
  CommandWords 0x21 (fun w => w.extractLsb' 0 56 == 0) (fun _ => .getbri) ∧
  (∀ s : State, ∃ d : Colour, d.toNat = s.bri.toNat ∧ exec .getbri s = .next (answered s ⟨.ok, d⟩)) ∧
  (∀ (s : State) (b : Byte), ∃ (t : State) (d : Colour), execAll [.setbri b, .getbri] s = .next t ∧
    t.rspPort = some ⟨.ok, d⟩ ∧ d.toNat = b.toNat) ∧
  (∀ p : Config.Params, exec .getbri (State.resetOf p) = .next (answered (State.resetOf p) ⟨.ok, 0⟩))

/-! ### Transports -/

/-- R90 (BEGIN), with the events of R88: the selected transport's activation events in order, its outputs as they say,
ACTIVE = 1, the response (OK, 0), and nothing else. -/
def Obligations.BeginResult : Prop :=
  CommandWords 0x30 (fun w => w.extractLsb' 0 56 == 0) (fun _ => .beginTx) ∧
  ∀ s : State, Sound s → ∃ t : State, exec .beginTx s = .next t ∧
    t.active = true ∧ t.wire = s.wire ++ (activationEvents s.tx).map .out ∧ OutputsSwitched False s.tx s.tx s t ∧
    t = answered { s with active := t.active, spiOpen := t.spiOpen, padOe := t.padOe, padOut := t.padOut, wire := t.wire }
      ⟨.ok, 0⟩

/-- R90, D37: a second BEGIN leaves every output as the first left it, so the pad waveform of its events is empty. -/
def Obligations.BeginAgainKeepsOutputs : Prop :=
  ∀ s : State, Sound s → ∃ t u : State, exec .beginTx s = .next t ∧ exec .beginTx t = .next u ∧
    u.spiOpen = t.spiOpen ∧ u.padOe = t.padOe ∧ u.padOut = t.padOut ∧
    u.wire = t.wire ++ (activationEvents s.tx).map .out ∧ waveform t.pads ((activationEvents s.tx).map .out) = []

/-- R91 (SETTXHW), with the events of R88 and R89: PER ≥ P_SPI is ILLEGAL; otherwise the old transport is torn down first if it is
active, then peripheral PER is opened, and TXSEL and ACTIVE say so. -/
def Obligations.SettxhwResult : Prop :=
  CommandWords 0x31 (fun w => w.extractLsb' 8 48 == 0) (fun w => .settxhw (w.extractLsb' 0 8)) ∧
  (∀ (s : State) (per : Byte), s.cfg.pSpi ≤ per.toNat → exec (.settxhw per) s = .next (answered s ⟨.illegal, 0⟩)) ∧
  (∀ (s : State) (per : Byte), Sound s → per.toNat < s.cfg.pSpi → ∃ t : State, exec (.settxhw per) s = .next t ∧
    t.tx = .hw per ∧ t.active = true ∧
    t.wire = s.wire ++ ((if s.active then teardownEvents s.tx else []) ++ activationEvents (.hw per)).map .out ∧
    OutputsSwitched (s.active = true) s.tx (.hw per) s t ∧
    t = answered { s with tx := t.tx, active := t.active, spiOpen := t.spiOpen, padOe := t.padOe, padOut := t.padOut,
                          wire := t.wire } ⟨.ok, 0⟩)

/-- R92 (SETTXSW), with the events of R88 and R89: a pad ≥ P_PINS or twice the same pad is ILLEGAL; otherwise the old transport is
torn down first if it is active, then the two pads are driven low, and TXSEL and ACTIVE say so. -/
def Obligations.SettxswResult : Prop :=
  CommandWords 0x32 (fun w => w.extractLsb' 16 40 == 0) (fun w => .settxsw (w.extractLsb' 8 8) (w.extractLsb' 0 8)) ∧
  (∀ (s : State) (d c : Byte), s.cfg.pPins ≤ d.toNat ∨ s.cfg.pPins ≤ c.toNat ∨ d = c →
    exec (.settxsw d c) s = .next (answered s ⟨.illegal, 0⟩)) ∧
  (∀ (s : State) (d c : Byte), Sound s → d.toNat < s.cfg.pPins → c.toNat < s.cfg.pPins → d ≠ c →
    ∃ t : State, exec (.settxsw d c) s = .next t ∧
      t.tx = .sw d c ∧ t.active = true ∧
      t.wire = s.wire ++ ((if s.active then teardownEvents s.tx else []) ++ activationEvents (.sw d c)).map .out ∧
      OutputsSwitched (s.active = true) s.tx (.sw d c) s t ∧
      t = answered { s with tx := t.tx, active := t.active, spiOpen := t.spiOpen, padOe := t.padOe, padOut := t.padOut,
                            wire := t.wire } ⟨.ok, 0⟩)

/-! ### SHOW -/

/-- R94: E(N) is the least number of bytes with 16·E(N) ≥ N; 1 for 1 to 16, 2 for 17 to 32, 4096 for 65535. -/
def Obligations.EndMarkerLeast : Prop :=
  (∀ n, n ≤ 16 * endMarkerLength n ∧ ∀ e, n ≤ 16 * e → endMarkerLength n ≤ e) ∧
  (∀ n, endMarkerLength n = (n + 15) / 16) ∧ (∀ n, 1 ≤ n → n ≤ 16 → endMarkerLength n = 1) ∧
  (∀ n, 17 ≤ n → n ≤ 32 → endMarkerLength n = 2) ∧ endMarkerLength 65535 = 4096

/-- R103 with R95 to R99 (SHOW): every byte of the frame goes through the active transport, in order, as its events; with
ACTIVE = 0 or N = 0 no event; the response is (OK, 0); no register and no buffer byte changes, and of the outputs only the two
pads of a software transport, which end with the data pad high and the clock pad low. That a SHOW on a
peripheral completes rests on the fairness assumption of R130 (log entry 14). -/
def Obligations.ShowResult : Prop :=
  CommandWords 0x33 (fun w => w.extractLsb' 0 56 == 0) (fun _ => .showFrame) ∧
  ∀ s : State, Sound s → ∃ (bytes : List Byte) (t : State), FrameBytes s bytes ∧ exec .showFrame s = .next t ∧
    t = answered { s with
      padOut := t.padOut
      wire := s.wire ++ ((if s.active then bytes.flatMap (delivered s.tx) else []).map .out) } ⟨.ok, 0⟩ ∧
    (∀ p, ¬ (s.active = true ∧ 0 < s.n.toNat ∧ namesPad s.tx p) → t.padOutAt p = s.padOutAt p) ∧
    (∀ d c : Byte, s.active = true → 0 < s.n.toNat → s.tx = .sw d c →
      t.padOutAt d.toNat = true ∧ t.padOutAt c.toNat = false)

/-- R102: with ACTIVE = 1 and N ≥ 1 the logical byte stream of SHOW (R101) is the frame, on both transports. That a SHOW on a
peripheral completes rests on the fairness assumption of R130 (log entry 14). -/
def Obligations.ShowStreamIsTheFrame : Prop :=
  ∀ s : State, Sound s → s.active = true → 0 < s.n.toNat → ∃ (bytes : List Byte) (events : List OutEvent) (t : State),
    exec .showFrame s = .next t ∧ t.wire = s.wire ++ events.map .out ∧ FrameBytes s bytes ∧
    logicalBytes s.tx events = bytes

/-- R104: after a SHOW on a software transport the clock pad is low and the data pad high; after BEGIN both are low. -/
def Obligations.PadsAfterShowAndBegin : Prop :=
  ∀ (s : State) (d c : Byte), Sound s → s.tx = .sw d c →
    (s.active = true → 0 < s.n.toNat → ∃ t, exec .showFrame s = .next t ∧
      t.padOutAt c.toNat = false ∧ t.padOutAt d.toNat = true ∧ t.padOe = s.padOe) ∧
    (∃ t, exec .beginTx s = .next t ∧ t.padOutAt c.toNat = false ∧ t.padOutAt d.toNat = false)

/-- R33, R98, R28: a SHOW on a peripheral presents the frame's bytes one by one, each until `spi_tx_ready`, and the framer's
position is the number of bytes taken (ticks and position as log entries 3 and 4 build them). -/
def Obligations.ShowPresentsEachByte : Prop :=
  ∀ (s : State) (k : Byte) (w : Word), Inv s → s.busy = false → s.tx = .hw k → s.active = true → 0 < s.n.toNat →
    decode w = .ok .showFrame → ∃ bytes : List Byte, FrameBytes s bytes ∧
      ∀ (j : Nat) (x : Byte), bytes[j]? = some x → ∃ t u : State,
        run (j + 1) { s with inputs := .accept w :: (List.replicate j (.tick true) ++ [.tick false]) } = .next t ∧
        t.spiTx = some (k, x) ∧ t.framePos = some ⟨j, 7, 0⟩ ∧ t.busy = true ∧
        t.wire = s.wire ++ (bytes.take j).map (fun y => .out (.spiByte k y)) ∧
        step t = .next u ∧ u = { t with inputs := [] }

/-- R28, R99: a SHOW on two pads makes its writes one by one, and the framer's position tells the byte, the bit and the write
that is next (ticks and position as log entries 3 and 4 build them). -/
def Obligations.ShowPositionOnPads : Prop :=
  ∀ (s : State) (d c : Byte) (w : Word), Inv s → s.busy = false → s.tx = .sw d c → s.active = true → 0 < s.n.toNat →
    decode w = .ok .showFrame → ∃ bytes : List Byte, FrameBytes s bytes ∧
      ∀ (i bit write : Nat) (x : Byte), bytes[i]? = some x → bit < 8 → write < 3 → ∃ t : State,
        run (24 * i + 3 * (7 - bit) + write + 1)
          { s with inputs := .accept w :: List.replicate (24 * i + 3 * (7 - bit) + write) (.tick false) } = .next t ∧
        t.framePos = some ⟨i, bit, write⟩ ∧ t.busy = true ∧
        t.wire = s.wire ++ ((bytes.flatMap (delivered s.tx)).take (24 * i + 3 * (7 - bit) + write)).map .out

/-! ### Reset, the cycle level and the whole machine -/

/-- R119: reset records Reset and leaves every register and output at its stated value; after the edge the block is not ready, and
when the clear of the buffer has completed it is ready and every byte is 0. -/
def Obligations.ResetLeavesTheStatedValues : Prop :=
  (∀ p : Config.Params, p.wf = true →
    RegistersReset p (State.resetOf p) ∧ (State.resetOf p).cmdReady = true ∧ (∀ a, (State.resetOf p).byte a = 0)) ∧
  ∀ (s : State) (rest : List Input), s.cfg.wf = true →
    (∃ t, step { s with inputs := .rst :: rest } = .next t ∧ RegistersReset s.cfg t ∧ t.busy = true ∧ t.cmdReady = false ∧
      t.wire = s.wire ++ [.reset] ∧ t.rsp = s.rsp ∧ t.cfg = s.cfg) ∧
    (∃ t, step { s with inputs := .reset :: rest } = .next t ∧ RegistersReset s.cfg t ∧ t.busy = false ∧
      (¬ resetNext rest → t.cmdReady = true) ∧
      (∀ a, t.byte a = 0) ∧ t.wire = s.wire ++ [.reset] ∧ t.rsp = s.rsp ∧ t.cfg = s.cfg)

/-- The values of R119 hold all through the clear of the buffer, BUSY stays 1 and `cmd_ready` 0 until it has completed, and then
every byte is 0. That the clear takes one tick a byte and one to end is the model's choice (log entry 3). -/
def Obligations.ResetGivesTheStatedValues : Prop :=
  ∀ (s : State) (readies : List Bool) (count : Nat), s.cfg.wf = true → Memory.wf s.buf = true →
    count = (if s.cfg.nInit ≤ s.cfg.nMax then s.cfg.nInit else 0) → readies.length = 3 * count + 1 →
    s.inputs = .rst :: readies.map .tick →
    (∀ k, 1 ≤ k → k ≤ 3 * count + 1 → ∃ t, run k s = .next t ∧ RegistersReset s.cfg t ∧ t.busy = true ∧
      t.cmdReady = false ∧ t.wire = s.wire ++ [.reset] ∧ t.rsp = s.rsp ∧ t.cfg = s.cfg) ∧
    (∃ t, run (3 * count + 2) s = .next t ∧ RegistersReset s.cfg t ∧ t.busy = false ∧ t.cmdReady = true ∧
      (∀ a, t.byte a = 0) ∧ t.wire = s.wire ++ [.reset] ∧ t.rsp = s.rsp ∧ t.cfg = s.cfg)

/-- Reset as one step is the edge followed by the completed clear (R119; the two levels of R8 as log entries 2 and 3 build them). -/
def Obligations.ResetStepIsEdgeAndClear : Prop :=
  ∀ (s : State) (rest : List Input), s.cfg.wf = true → Memory.wf s.buf = true → ∃ (clearing : Nat) (t : State),
    step { s with inputs := .reset :: rest } = .next t ∧ RegistersReset s.cfg t ∧ t.busy = false ∧
    (¬ resetNext rest → t.cmdReady = true) ∧ (∀ a, t.byte a = 0) ∧
    t.wire = s.wire ++ [.reset] ∧ t.rsp = s.rsp ∧
    run (clearing + 1) { s with inputs := .rst :: (List.replicate clearing (.tick false) ++ rest) } = .next t

/-- The invariant holds right after reset, for every elaboration whose parameters are in range. -/
def Obligations.InvAtReset : Prop := (∀ p : Config.Params, p.wf = true → Inv (State.resetOf p)) ∧ Inv State.reset

/-- Every step keeps the invariant: N ≤ N_MAX, TXSEL legal, no byte held at index ≥ 3N, the buffer canonical, and between
commands exactly the outputs of an active selection on (R19, R20, R23, R24, R26). -/
def Obligations.StepKeepsInv : Prop := ∀ s t : State, Inv s → step s = .next t → Inv t

/-- From a state with the invariant every step goes on: no command has a trap (R109), none writes out of bounds (R44) or to an
output that does not exist. -/
def Obligations.StepAlwaysGoesOn : Prop := ∀ s : State, Inv s → ∃ t, step s = .next t

/-- R12: both traces are appended to and never rewritten, by commands, effects, waiting and reset alike. -/
def Obligations.TracesOnlyGrow : Prop :=
  ∀ s t : State, step s = .next t → s.wire <+: t.wire ∧ s.rsp <+: t.rsp

/-- R9: no step changes a parameter, and an elaboration is refused exactly when a parameter is outside its range. -/
def Obligations.ElaborationRefusedOrFixed : Prop :=
  (∀ s t : State, step s = .next t → t.cfg = s.cfg) ∧
  (∀ s : State, step s = .refused .badElaboration ↔
    ¬ (s.cfg.nMax ≤ 65535 ∧ (1 ≤ s.cfg.nInit ∧ s.cfg.nInit ≤ 65535) ∧ s.cfg.pSpi ≤ 256 ∧
       (2 ≤ s.cfg.pPins ∧ s.cfg.pPins ≤ 256) ∧ 0 < s.cfg.spiClkHz ∧ 1 ≤ s.cfg.swPhaseCycles ∧
       ((∃ k : Byte, s.cfg.txInit = .hw k ∧ k.toNat < s.cfg.pSpi) ∨
        (∃ d c : Byte, s.cfg.txInit = .sw d c ∧ d.toNat < s.cfg.pPins ∧ c.toNat < s.cfg.pPins ∧ d ≠ c))))

/-- R32: an accepted command has its response in exactly one cycle, at least one after acceptance: until then the port is 0 and
BUSY is 1, then the response is presented and the block is ready, and a cycle later the port is 0 again. A cycle is a tick of
the model (log entry 3). -/
def Obligations.ResponsePresentedOnce : Prop :=
  ∀ (s : State) (w : Word), Inv s → s.busy = false → ∃ (effects : Nat) (r : Response),
    (∀ k, 1 ≤ k → k ≤ effects + 1 → ∃ t,
      run k { s with inputs := .accept w :: List.replicate (effects + 2) (.tick true) } = .next t ∧ t.busy = true ∧
      t.cmdReady = false ∧ t.rspValid = 0 ∧ t.rspStatus = 0 ∧ t.rspData = 0 ∧ t.rsp = s.rsp) ∧
    (∃ t, run (effects + 2) { s with inputs := .accept w :: List.replicate (effects + 2) (.tick true) } = .next t ∧
      t.cmdReady = true ∧ t.rspValid = 1 ∧ t.rspStatus = r.status.code ∧ t.rspData = r.data ∧ t.rsp = s.rsp ++ [r]) ∧
    (∃ t, run (effects + 3) { s with inputs := .accept w :: List.replicate (effects + 2) (.tick true) } = .next t ∧
      t.cmdReady = true ∧ t.rspValid = 0 ∧ t.rspStatus = 0 ∧ t.rspData = 0 ∧ t.rsp = s.rsp ++ [r])

/-- R8, R46, R130: a command done effect by effect ends where the one atomic step ends. Every command other than SHOW does so
whatever the peripheral does; SHOW does when every handshake completes (R130's fairness, log entry 14). -/
def Obligations.EffectsEndAsTheAtomicStep : Prop :=
  ∀ (s : State) (w : Word) (rest : List Input), Inv s → s.busy = false → ∃ (effects : Nat) (t : State),
    step { s with inputs := .command w :: rest } = .next t ∧
    ∀ readies : List Bool, readies.length = effects + 1 →
      (∀ b ∈ readies, b = true) ∨ decode w ≠ .ok .showFrame →
      run (effects + 2) { s with inputs := .accept w :: (readies.map .tick ++ rest) } = .next t

/-- R125: a reset while a command executes aborts it: no response, every register and output reset, and after the events of the
command a Reset; every prefix of the command's wire events is admitted, and nothing but a prefix while it has not responded
(K10; the ticks of log entry 3). -/
def Obligations.ResetAdmitsEveryPrefix : Prop :=
  ∀ (s : State) (w : Word), Inv s → s.busy = false → ∃ (events : List OutEvent) (v : State),
    step { s with inputs := [.command w] } = .next v ∧ v.wire = s.wire ++ events.map .out ∧
    (∀ part, part <+: events → ∃ (j : Nat) (t : State),
      run (j + 2) { s with inputs := .accept w :: (List.replicate j (.tick true) ++ [.rst]) } = .next t ∧
      t.wire = s.wire ++ part.map .out ++ [.reset] ∧ t.rsp = s.rsp ∧ RegistersReset s.cfg t) ∧
    (∀ (j : Nat) (t : State),
      run (j + 2) { s with inputs := .accept w :: (List.replicate j (.tick true) ++ [.rst]) } = .next t →
      RegistersReset s.cfg t ∧
      (t.rsp = s.rsp → ∃ part, part <+: events ∧ t.wire = s.wire ++ part.map .out ++ [.reset]))

/-- R126: while the selected peripheral does not raise `spi_tx_ready`, SHOW makes no progress and no word is accepted, however
long; a reset ends it (inputs and ticks of log entries 2 and 3). -/
def Obligations.StalledShowIsStuckUntilReset : Prop :=
  ∀ (s : State) (k x : Byte), s.cfg.wf = true → s.spiTx = some (k, x) →
    ((∀ inp ∈ s.inputs, inp = .tick false ∨ ∃ w, inp = .command w ∨ inp = .accept w) →
      run s.inputs.length s = .next { s with inputs := [] }) ∧
    (∀ rest, ∃ t, step { s with inputs := .reset :: rest } = .next t ∧ t.busy = false ∧
      (¬ resetNext rest → t.cmdReady = true) ∧ t.rsp = s.rsp)

/-- R27, R30, R31: `cmd_ready` is not BUSY and not rst; a word is accepted exactly where it is 1, and then BUSY is 1; where `rst`
is 1 it is 0, no command is accepted or answered, and the block is reset (the inputs are those of log entry 2). -/
def Obligations.CmdReadyIsNotBusyAndNotRst : Prop :=
  (∀ s : State, s.cmdReady = true ↔ s.busy = false ∧ ¬ resetNext s.inputs) ∧
  (∀ (s : State) (w : Word) (rest : List Input), s.cfg.wf = true → s.inputs = .accept w :: rest →
    (s.cmdReady = true → ∃ t, step s = .next t ∧ t.busy = true ∧ t.cmdReady = false ∧ t.rsp = s.rsp ∧ t.inputs = rest) ∧
    (s.cmdReady = false → step s = .next { s with inputs := rest })) ∧
  (∀ (s : State) (rest : List Input), s.cfg.wf = true → s.inputs = .rst :: rest ∨ s.inputs = .reset :: rest →
    s.cmdReady = false ∧ ∃ t, step s = .next t ∧ t.rsp = s.rsp ∧ RegistersReset s.cfg t)

/-- R100: the waveform is the sequence of distinct values of the pads over time, a Reset forcing every level to 0 (R12), and
the waveform of what a step adds to the wire trace ends at the levels the step leaves. -/
def Obligations.WaveformIsTheDistinctValues : Prop :=
  (∀ (p : Pads) (events : List WireEvent),
    (waveform p events).scanl Pads.after p = (events.scanl Pads.after p).destutter (· ≠ ·)) ∧
  (∀ p : Pads, waveform p [.reset] = [] ↔ (∀ v ∈ p.oe, v = false) ∧ ∀ v ∈ p.out, v = false) ∧
  (∀ s t : State, Inv s → step s = .next t → ∃ events : List WireEvent, t.wire = s.wire ++ events ∧
    (waveform s.pads events).foldl Pads.after s.pads = t.pads)
end

