-- ==== Sys2Proof/Laws/PerInstr.lean ====
section
/-! SUPPORT. Per-instruction laws: each command's word has the opcode of its row, and 0 in every
reserved bit (R52, R54, R56), and its fields read back the operands (R52). -/

namespace Sys2Proof.Laws.OpcodeRow

/-- The mask of the command's row (R54). -/
def maskOf : Instr → Word
  | .color _ _ _ => 0xFFFFFFFFFF000000
  | .colorhsv _ _ _ => 0xFFFFFFFF00000000
  | .gamma32 _ => 0xFFFFFFFF00000000
  | .resize _ => 0xFFFFFFFFFFFF0000
  | .setpix _ _ _ _ => 0xFF0000FFFF000000
  | .setpixc _ _ => 0xFF0000FF00000000
  | .getpix _ => 0xFF0000FFFFFFFFFF
  | .fill _ _ _ => 0xFF00000000000000
  | .clear => 0xFFFFFFFFFFFFFFFF
  | .numpix => 0xFFFFFFFFFFFFFFFF
  | .setbri _ => 0xFFFFFFFFFFFFFF00
  | .getbri => 0xFFFFFFFFFFFFFFFF
  | .beginTx => 0xFFFFFFFFFFFFFFFF
  | .settxhw _ => 0xFFFFFFFFFFFFFF00
  | .settxsw _ _ => 0xFFFFFFFFFFFF0000
  | .showFrame => 0xFFFFFFFFFFFFFFFF

/-- The match value of the command's row (R54). -/
def patternOf : Instr → Word
  | .color _ _ _ => 0x0100000000000000
  | .colorhsv _ _ _ => 0x0200000000000000
  | .gamma32 _ => 0x0300000000000000
  | .resize _ => 0x1000000000000000
  | .setpix _ _ _ _ => 0x1100000000000000
  | .setpixc _ _ => 0x1200000000000000
  | .getpix _ => 0x1300000000000000
  | .fill _ _ _ => 0x1400000000000000
  | .clear => 0x1500000000000000
  | .numpix => 0x1600000000000000
  | .setbri _ => 0x2000000000000000
  | .getbri => 0x2100000000000000
  | .beginTx => 0x3000000000000000
  | .settxhw _ => 0x3100000000000000
  | .settxsw _ _ => 0x3200000000000000
  | .showFrame => 0x3300000000000000

/-- `W & mask = match` for the command's own word and row (R54). -/
def Statement (i : Instr) : Prop := encode i &&& maskOf i = patternOf i

theorem color (r g b : Byte) : Statement (.color r g b) := by
  show (0x01#8 ++ 0#32 ++ r ++ g ++ b) &&&
    (0xFF#8 ++ 0xFFFFFFFF#32 ++ 0#8 ++ 0#8 ++ 0#8) = 0x01#8 ++ 0#32 ++ 0#8 ++ 0#8 ++ 0#8
  simp only [BitVec.and_append]
  simp

theorem colorhsv (hue : Half) (sat val : Byte) : Statement (.colorhsv hue sat val) := by
  show (0x02#8 ++ 0#24 ++ hue ++ sat ++ val) &&&
    (0xFF#8 ++ 0xFFFFFF#24 ++ 0#16 ++ 0#8 ++ 0#8) = 0x02#8 ++ 0#24 ++ 0#16 ++ 0#8 ++ 0#8
  simp only [BitVec.and_append]
  simp

theorem gamma32 (c : Colour) : Statement (.gamma32 c) := by
  show (0x03#8 ++ 0#24 ++ c) &&&
    (0xFF#8 ++ 0xFFFFFF#24 ++ 0#32) = 0x03#8 ++ 0#24 ++ 0#32
  simp only [BitVec.and_append]
  simp

theorem resize (len : Half) : Statement (.resize len) := by
  show (0x10#8 ++ 0#40 ++ len) &&&
    (0xFF#8 ++ 0xFFFFFFFFFF#40 ++ 0#16) = 0x10#8 ++ 0#40 ++ 0#16
  simp only [BitVec.and_append]
  simp

theorem setpix (idx : Half) (r g b : Byte) : Statement (.setpix idx r g b) := by
  show (0x11#8 ++ idx ++ 0#16 ++ r ++ g ++ b) &&&
    (0xFF#8 ++ 0#16 ++ 0xFFFF#16 ++ 0#8 ++ 0#8 ++ 0#8) = 0x11#8 ++ 0#16 ++ 0#16 ++ 0#8 ++ 0#8 ++ 0#8
  simp only [BitVec.and_append]
  simp

theorem setpixc (idx : Half) (c : Colour) : Statement (.setpixc idx c) := by
  show (0x12#8 ++ idx ++ 0#8 ++ c) &&&
    (0xFF#8 ++ 0#16 ++ 0xFF#8 ++ 0#32) = 0x12#8 ++ 0#16 ++ 0#8 ++ 0#32
  simp only [BitVec.and_append]
  simp

theorem getpix (idx : Half) : Statement (.getpix idx) := by
  show (0x13#8 ++ idx ++ 0#40) &&&
    (0xFF#8 ++ 0#16 ++ 0xFFFFFFFFFF#40) = 0x13#8 ++ 0#16 ++ 0#40
  simp only [BitVec.and_append]
  simp

theorem fill (c : BitVec 24) (first count : Half) : Statement (.fill c first count) := by
  show (0x14#8 ++ first ++ count ++ c) &&&
    (0xFF#8 ++ 0#16 ++ 0#16 ++ 0#24) = 0x14#8 ++ 0#16 ++ 0#16 ++ 0#24
  simp only [BitVec.and_append]
  simp

theorem clear : Statement .clear := by
  unfold Statement
  decide

theorem numpix : Statement .numpix := by
  unfold Statement
  decide

theorem setbri (b : Byte) : Statement (.setbri b) := by
  show (0x20#8 ++ 0#48 ++ b) &&&
    (0xFF#8 ++ 0xFFFFFFFFFFFF#48 ++ 0#8) = 0x20#8 ++ 0#48 ++ 0#8
  simp only [BitVec.and_append]
  simp

theorem getbri : Statement .getbri := by
  unfold Statement
  decide

theorem beginTx : Statement .beginTx := by
  unfold Statement
  decide

theorem settxhw (per : Byte) : Statement (.settxhw per) := by
  show (0x31#8 ++ 0#48 ++ per) &&&
    (0xFF#8 ++ 0xFFFFFFFFFFFF#48 ++ 0#8) = 0x31#8 ++ 0#48 ++ 0#8
  simp only [BitVec.and_append]
  simp

theorem settxsw (dpin cpin : Byte) : Statement (.settxsw dpin cpin) := by
  show (0x32#8 ++ 0#40 ++ dpin ++ cpin) &&&
    (0xFF#8 ++ 0xFFFFFFFFFF#40 ++ 0#8 ++ 0#8) = 0x32#8 ++ 0#40 ++ 0#8 ++ 0#8
  simp only [BitVec.and_append]
  simp

theorem showFrame : Statement .showFrame := by
  unfold Statement
  decide

end Sys2Proof.Laws.OpcodeRow

namespace Sys2Proof.Laws.FieldsRead

/-- The fields of the command's word are its operands (R52). -/
def Statement (i : Instr) : Prop :=
  match i with
  | .color r g b => fR (encode (.color r g b)) = r ∧ fG (encode (.color r g b)) = g ∧ fB (encode (.color r g b)) = b
  | .colorhsv hue sat val => fHue (encode (.colorhsv hue sat val)) = hue ∧ fSat (encode (.colorhsv hue sat val)) = sat ∧ fVal (encode (.colorhsv hue sat val)) = val
  | .gamma32 c => fC32 (encode (.gamma32 c)) = c
  | .resize len => fLen (encode (.resize len)) = len
  | .setpix idx r g b => fIdx (encode (.setpix idx r g b)) = idx ∧ fR (encode (.setpix idx r g b)) = r ∧ fG (encode (.setpix idx r g b)) = g ∧ fB (encode (.setpix idx r g b)) = b
  | .setpixc idx c => fIdx (encode (.setpixc idx c)) = idx ∧ fC32 (encode (.setpixc idx c)) = c
  | .getpix idx => fIdx (encode (.getpix idx)) = idx
  | .fill c first count => fC24 (encode (.fill c first count)) = c ∧ fFirst (encode (.fill c first count)) = first ∧ fCount (encode (.fill c first count)) = count
  | .clear => True
  | .numpix => True
  | .setbri b => fBri8 (encode (.setbri b)) = b
  | .getbri => True
  | .beginTx => True
  | .settxhw per => fPer (encode (.settxhw per)) = per
  | .settxsw dpin cpin => fDpin (encode (.settxsw dpin cpin)) = dpin ∧ fCpin (encode (.settxsw dpin cpin)) = cpin
  | .showFrame => True

theorem color (r g b : Byte) : Statement (.color r g b) := by
  refine ⟨?_, ?_, ?_⟩
  · show BitVec.extractLsb' 16 8 (0x01#8 ++ 0#32 ++ r ++ g ++ b) = r
    rw [BitVec.extractLsb'_append_eq_of_le (by decide), BitVec.extractLsb'_append_eq_of_le (by decide)]
    exact BitVec.extractLsb'_append_eq_right
  · show BitVec.extractLsb' 8 8 (0x01#8 ++ 0#32 ++ r ++ g ++ b) = g
    rw [BitVec.extractLsb'_append_eq_of_le (by decide)]
    exact BitVec.extractLsb'_append_eq_right
  · show BitVec.extractLsb' 0 8 (0x01#8 ++ 0#32 ++ r ++ g ++ b) = b
    exact BitVec.extractLsb'_append_eq_right

theorem colorhsv (hue : Half) (sat val : Byte) : Statement (.colorhsv hue sat val) := by
  refine ⟨?_, ?_, ?_⟩
  · show BitVec.extractLsb' 16 16 (0x02#8 ++ 0#24 ++ hue ++ sat ++ val) = hue
    rw [BitVec.extractLsb'_append_eq_of_le (by decide), BitVec.extractLsb'_append_eq_of_le (by decide)]
    exact BitVec.extractLsb'_append_eq_right
  · show BitVec.extractLsb' 8 8 (0x02#8 ++ 0#24 ++ hue ++ sat ++ val) = sat
    rw [BitVec.extractLsb'_append_eq_of_le (by decide)]
    exact BitVec.extractLsb'_append_eq_right
  · show BitVec.extractLsb' 0 8 (0x02#8 ++ 0#24 ++ hue ++ sat ++ val) = val
    exact BitVec.extractLsb'_append_eq_right

theorem gamma32 (c : Colour) : Statement (.gamma32 c) := by
  show BitVec.extractLsb' 0 32 (0x03#8 ++ 0#24 ++ c) = c
  exact BitVec.extractLsb'_append_eq_right

theorem resize (len : Half) : Statement (.resize len) := by
  show BitVec.extractLsb' 0 16 (0x10#8 ++ 0#40 ++ len) = len
  exact BitVec.extractLsb'_append_eq_right

theorem setpix (idx : Half) (r g b : Byte) : Statement (.setpix idx r g b) := by
  refine ⟨?_, ?_, ?_, ?_⟩
  · show BitVec.extractLsb' 40 16 (0x11#8 ++ idx ++ 0#16 ++ r ++ g ++ b) = idx
    rw [BitVec.extractLsb'_append_eq_of_le (by decide), BitVec.extractLsb'_append_eq_of_le (by decide), BitVec.extractLsb'_append_eq_of_le (by decide), BitVec.extractLsb'_append_eq_of_le (by decide)]
    exact BitVec.extractLsb'_append_eq_right
  · show BitVec.extractLsb' 16 8 (0x11#8 ++ idx ++ 0#16 ++ r ++ g ++ b) = r
    rw [BitVec.extractLsb'_append_eq_of_le (by decide), BitVec.extractLsb'_append_eq_of_le (by decide)]
    exact BitVec.extractLsb'_append_eq_right
  · show BitVec.extractLsb' 8 8 (0x11#8 ++ idx ++ 0#16 ++ r ++ g ++ b) = g
    rw [BitVec.extractLsb'_append_eq_of_le (by decide)]
    exact BitVec.extractLsb'_append_eq_right
  · show BitVec.extractLsb' 0 8 (0x11#8 ++ idx ++ 0#16 ++ r ++ g ++ b) = b
    exact BitVec.extractLsb'_append_eq_right

theorem setpixc (idx : Half) (c : Colour) : Statement (.setpixc idx c) := by
  refine ⟨?_, ?_⟩
  · show BitVec.extractLsb' 40 16 (0x12#8 ++ idx ++ 0#8 ++ c) = idx
    rw [BitVec.extractLsb'_append_eq_of_le (by decide), BitVec.extractLsb'_append_eq_of_le (by decide)]
    exact BitVec.extractLsb'_append_eq_right
  · show BitVec.extractLsb' 0 32 (0x12#8 ++ idx ++ 0#8 ++ c) = c
    exact BitVec.extractLsb'_append_eq_right

theorem getpix (idx : Half) : Statement (.getpix idx) := by
  show BitVec.extractLsb' 40 16 (0x13#8 ++ idx ++ 0#40) = idx
  rw [BitVec.extractLsb'_append_eq_of_le (by decide)]
  exact BitVec.extractLsb'_append_eq_right

theorem fill (c : BitVec 24) (first count : Half) : Statement (.fill c first count) := by
  refine ⟨?_, ?_, ?_⟩
  · show BitVec.extractLsb' 0 24 (0x14#8 ++ first ++ count ++ c) = c
    exact BitVec.extractLsb'_append_eq_right
  · show BitVec.extractLsb' 40 16 (0x14#8 ++ first ++ count ++ c) = first
    rw [BitVec.extractLsb'_append_eq_of_le (by decide), BitVec.extractLsb'_append_eq_of_le (by decide)]
    exact BitVec.extractLsb'_append_eq_right
  · show BitVec.extractLsb' 24 16 (0x14#8 ++ first ++ count ++ c) = count
    rw [BitVec.extractLsb'_append_eq_of_le (by decide)]
    exact BitVec.extractLsb'_append_eq_right

theorem clear : Statement .clear := trivial

theorem numpix : Statement .numpix := trivial

theorem setbri (b : Byte) : Statement (.setbri b) := by
  show BitVec.extractLsb' 0 8 (0x20#8 ++ 0#48 ++ b) = b
  exact BitVec.extractLsb'_append_eq_right

theorem getbri : Statement .getbri := trivial

theorem beginTx : Statement .beginTx := trivial

theorem settxhw (per : Byte) : Statement (.settxhw per) := by
  show BitVec.extractLsb' 0 8 (0x31#8 ++ 0#48 ++ per) = per
  exact BitVec.extractLsb'_append_eq_right

theorem settxsw (dpin cpin : Byte) : Statement (.settxsw dpin cpin) := by
  refine ⟨?_, ?_⟩
  · show BitVec.extractLsb' 8 8 (0x32#8 ++ 0#40 ++ dpin ++ cpin) = dpin
    rw [BitVec.extractLsb'_append_eq_of_le (by decide)]
    exact BitVec.extractLsb'_append_eq_right
  · show BitVec.extractLsb' 0 8 (0x32#8 ++ 0#40 ++ dpin ++ cpin) = cpin
    exact BitVec.extractLsb'_append_eq_right

theorem showFrame : Statement .showFrame := trivial

end Sys2Proof.Laws.FieldsRead
end

