-- ==== Sys2Proof/Laws/Decode.lean ====
section
/-! SUPPORT. A mask is an opcode and a range of reserved bits: what matching a row says about the fields (R52, R54). -/

namespace Sys2Proof

/-- Two words are equal if their bits from `k` on and their bits below `k` are. -/
theorem word_eq_of_parts {x y : Word} (k : Nat) (hi : x.extractLsb' k (64 - k) = y.extractLsb' k (64 - k))
    (lo : x.extractLsb' 0 k = y.extractLsb' 0 k) : x = y := by
  apply BitVec.eq_of_getLsbD_eq
  intro i h
  by_cases hik : i < k
  · simpa [BitVec.getLsbD_extractLsb', hik] using congrArg (fun z => z.getLsbD i) lo
  · have h2 : i - k < 64 - k := by omega
    have h3 : k + (i - k) = i := by omega
    simpa [BitVec.getLsbD_extractLsb', h2, h3] using congrArg (fun z => z.getLsbD (i - k)) hi

/-- Two ranges of bits are equal if their upper and lower parts are. -/
theorem extract_eq_of_parts {x y : Word} (s k l : Nat)
    (hi : x.extractLsb' (s + k) (l - k) = y.extractLsb' (s + k) (l - k)) (lo : x.extractLsb' s k = y.extractLsb' s k) :
    x.extractLsb' s l = y.extractLsb' s l := by
  apply BitVec.eq_of_getLsbD_eq
  intro i h
  by_cases hik : i < k
  · simpa [BitVec.getLsbD_extractLsb', hik, h] using congrArg (fun z => z.getLsbD i) lo
  · have h2 : i - k < l - k := by omega
    have h3 : s + k + (i - k) = s + i := by omega
    simpa [BitVec.getLsbD_extractLsb', h2, h3, h] using congrArg (fun z => z.getLsbD (i - k)) hi

theorem extract_and_ones {w m : Word} {s l : Nat} (h : m.extractLsb' s l = BitVec.allOnes l) :
    (w &&& m).extractLsb' s l = w.extractLsb' s l := by
  rw [BitVec.extractLsb'_and, h, BitVec.and_allOnes]

theorem extract_and_zero {w m : Word} {s l : Nat} (h : m.extractLsb' s l = 0) : (w &&& m).extractLsb' s l = 0 := by
  rw [BitVec.extractLsb'_and, h]
  exact BitVec.and_zero

/-- Matching a row whose mask is the opcode and the bits `lo` to `lo + len - 1`. -/
theorem masked_iff (w m p : Word) (lo len : Nat) (h1 : m.extractLsb' 56 8 = BitVec.allOnes 8)
    (h2 : m.extractLsb' lo len = BitVec.allOnes len) (h3 : m.extractLsb' 0 lo = 0)
    (h4 : m.extractLsb' (lo + len) (56 - (lo + len)) = 0) (h5 : p.extractLsb' lo len = 0)
    (h6 : p.extractLsb' 0 lo = 0) (h7 : p.extractLsb' (lo + len) (56 - (lo + len)) = 0) :
    w &&& m = p ↔ w.extractLsb' 56 8 = p.extractLsb' 56 8 ∧ w.extractLsb' lo len = 0 := by
  constructor
  · intro h
    rw [← h, extract_and_ones h1]
    refine ⟨rfl, ?_⟩
    rw [← extract_and_ones (w := w) h2, h, h5]
  · rintro ⟨ho, hr⟩
    apply word_eq_of_parts 56
    · rw [extract_and_ones h1, ho]
    apply extract_eq_of_parts 0 (lo + len) 56
    · rw [Nat.zero_add, extract_and_zero h4, h7]
    apply extract_eq_of_parts 0 lo (lo + len)
    · rw [Nat.zero_add, Nat.add_sub_cancel_left, extract_and_ones h2, hr, h5]
    · rw [extract_and_zero h3, h6]

/-- What it is to match a row of the table, row by row. -/
theorem covers_iff (w : Word) :
    (w &&& 0xFFFFFFFFFF000000 = 0x0100000000000000 ↔ w.extractLsb' 56 8 = 0x01 ∧ w.extractLsb' 24 32 = 0) ∧
    (w &&& 0xFFFFFFFF00000000 = 0x0200000000000000 ↔ w.extractLsb' 56 8 = 0x02 ∧ w.extractLsb' 32 24 = 0) ∧
    (w &&& 0xFFFFFFFF00000000 = 0x0300000000000000 ↔ w.extractLsb' 56 8 = 0x03 ∧ w.extractLsb' 32 24 = 0) ∧
    (w &&& 0xFFFFFFFFFFFF0000 = 0x1000000000000000 ↔ w.extractLsb' 56 8 = 0x10 ∧ w.extractLsb' 16 40 = 0) ∧
    (w &&& 0xFF0000FFFF000000 = 0x1100000000000000 ↔ w.extractLsb' 56 8 = 0x11 ∧ w.extractLsb' 24 16 = 0) ∧
    (w &&& 0xFF0000FF00000000 = 0x1200000000000000 ↔ w.extractLsb' 56 8 = 0x12 ∧ w.extractLsb' 32 8 = 0) ∧
    (w &&& 0xFF0000FFFFFFFFFF = 0x1300000000000000 ↔ w.extractLsb' 56 8 = 0x13 ∧ w.extractLsb' 0 40 = 0) ∧
    (w &&& 0xFF00000000000000 = 0x1400000000000000 ↔ w.extractLsb' 56 8 = 0x14 ∧ w.extractLsb' 0 0 = 0) ∧
    (w &&& 0xFFFFFFFFFFFFFFFF = 0x1500000000000000 ↔ w.extractLsb' 56 8 = 0x15 ∧ w.extractLsb' 0 56 = 0) ∧
    (w &&& 0xFFFFFFFFFFFFFFFF = 0x1600000000000000 ↔ w.extractLsb' 56 8 = 0x16 ∧ w.extractLsb' 0 56 = 0) ∧
    (w &&& 0xFFFFFFFFFFFFFF00 = 0x2000000000000000 ↔ w.extractLsb' 56 8 = 0x20 ∧ w.extractLsb' 8 48 = 0) ∧
    (w &&& 0xFFFFFFFFFFFFFFFF = 0x2100000000000000 ↔ w.extractLsb' 56 8 = 0x21 ∧ w.extractLsb' 0 56 = 0) ∧
    (w &&& 0xFFFFFFFFFFFFFFFF = 0x3000000000000000 ↔ w.extractLsb' 56 8 = 0x30 ∧ w.extractLsb' 0 56 = 0) ∧
    (w &&& 0xFFFFFFFFFFFFFF00 = 0x3100000000000000 ↔ w.extractLsb' 56 8 = 0x31 ∧ w.extractLsb' 8 48 = 0) ∧
    (w &&& 0xFFFFFFFFFFFF0000 = 0x3200000000000000 ↔ w.extractLsb' 56 8 = 0x32 ∧ w.extractLsb' 16 40 = 0) ∧
    (w &&& 0xFFFFFFFFFFFFFFFF = 0x3300000000000000 ↔ w.extractLsb' 56 8 = 0x33 ∧ w.extractLsb' 0 56 = 0) := by
  refine ⟨?_, ?_, ?_, ?_, ?_, ?_, ?_, ?_, ?_, ?_, ?_, ?_, ?_, ?_, ?_, ?_⟩
  · exact masked_iff w _ _ 24 32 (by decide) (by decide) (by decide) (by decide) (by decide) (by decide) (by decide)
  · exact masked_iff w _ _ 32 24 (by decide) (by decide) (by decide) (by decide) (by decide) (by decide) (by decide)
  · exact masked_iff w _ _ 32 24 (by decide) (by decide) (by decide) (by decide) (by decide) (by decide) (by decide)
  · exact masked_iff w _ _ 16 40 (by decide) (by decide) (by decide) (by decide) (by decide) (by decide) (by decide)
  · exact masked_iff w _ _ 24 16 (by decide) (by decide) (by decide) (by decide) (by decide) (by decide) (by decide)
  · exact masked_iff w _ _ 32 8 (by decide) (by decide) (by decide) (by decide) (by decide) (by decide) (by decide)
  · exact masked_iff w _ _ 0 40 (by decide) (by decide) (by decide) (by decide) (by decide) (by decide) (by decide)
  · exact masked_iff w _ _ 0 0 (by decide) (by decide) (by decide) (by decide) (by decide) (by decide) (by decide)
  · exact masked_iff w _ _ 0 56 (by decide) (by decide) (by decide) (by decide) (by decide) (by decide) (by decide)
  · exact masked_iff w _ _ 0 56 (by decide) (by decide) (by decide) (by decide) (by decide) (by decide) (by decide)
  · exact masked_iff w _ _ 8 48 (by decide) (by decide) (by decide) (by decide) (by decide) (by decide) (by decide)
  · exact masked_iff w _ _ 0 56 (by decide) (by decide) (by decide) (by decide) (by decide) (by decide) (by decide)
  · exact masked_iff w _ _ 0 56 (by decide) (by decide) (by decide) (by decide) (by decide) (by decide) (by decide)
  · exact masked_iff w _ _ 8 48 (by decide) (by decide) (by decide) (by decide) (by decide) (by decide) (by decide)
  · exact masked_iff w _ _ 16 40 (by decide) (by decide) (by decide) (by decide) (by decide) (by decide) (by decide)
  · exact masked_iff w _ _ 0 56 (by decide) (by decide) (by decide) (by decide) (by decide) (by decide) (by decide)

end Sys2Proof
end

