-- ==== Sys2Proof/Laws/Memory.lean ====
section
/-! SUPPORT. The laws of the buffer: read after write, the canonical form and that it determines the list. -/

namespace Sys2Proof.Machine

/-- A canonical list with a cell in front: the cell is not 0, every other address is above it. -/
theorem Memory.wf_cons {a : Nat} {v : Byte} {m : Memory} :
    Memory.wf ((a, v) :: m) = true ↔ v ≠ 0 ∧ (∀ c ∈ m, a < c.1) ∧ Memory.wf m = true := by
  simp [Memory.wf, and_assoc]

/-- An address that no cell has reads as an unlisted byte. -/
theorem Memory.read_of_not_listed {m : Memory} {a : Nat} (h : ∀ c ∈ m, a ≠ c.1) : Memory.read m a = 0 := by
  induction m with
  | nil => rfl
  | cons c m ih =>
    obtain ⟨b, v⟩ := c
    have hb : a ≠ b := h (b, v) (by simp)
    simp [Memory.read, hb, ih (fun c hc => h c (by simp [hc]))]

/-- An address below every cell reads as an unlisted byte. -/
theorem Memory.read_below_all {m : Memory} {a : Nat} (h : ∀ c ∈ m, a < c.1) : Memory.read m a = 0 :=
  Memory.read_of_not_listed fun c hc => (h c hc).ne

/-- A byte that does not read 0 has a cell. -/
theorem Memory.listed_of_read_ne {m : Memory} {a : Nat} (h : Memory.read m a ≠ 0) : ∃ c ∈ m, c.1 = a := by
  by_contra hn
  exact h (Memory.read_of_not_listed fun c hc e => hn ⟨c, hc, e.symm⟩)

/-- A write leaves every other byte alone. -/
theorem Memory.read_write_ne (m : Memory) {a b : Nat} (v : Byte) (h : b ≠ a) :
    Memory.read (Memory.write m a v) b = Memory.read m b := by
  induction m with
  | nil =>
    simp only [Memory.write]
    split
    · rfl
    · simp [Memory.read, h]
  | cons c m ih =>
    obtain ⟨e, x⟩ := c
    simp only [Memory.write]
    split
    · split
      · rfl
      · simp [Memory.read, h]
    · split
      · rename_i h1 h2
        subst h2
        split <;> simp [Memory.read, h]
      · simp [Memory.read, ih]

/-- A read after a write to the same byte gives the value written. -/
theorem Memory.read_write_same {m : Memory} (a : Nat) (v : Byte) (h : Memory.wf m = true) :
    Memory.read (Memory.write m a v) a = v := by
  induction m with
  | nil =>
    simp only [Memory.write]
    split
    · rename_i hv
      simp [Memory.read, hv]
    · simp [Memory.read]
  | cons c m ih =>
    obtain ⟨e, x⟩ := c
    obtain ⟨hx, hlt, hm⟩ := Memory.wf_cons.mp h
    simp only [Memory.write]
    split
    · rename_i h1
      split
      · rename_i hv
        subst hv
        apply Memory.read_below_all
        intro c hc
        rcases List.mem_cons.mp hc with rfl | hc
        · exact h1
        · exact lt_trans h1 (hlt c hc)
      · simp [Memory.read]
    · split
      · rename_i h1 h2
        subst h2
        split
        · rename_i hv
          subst hv
          exact Memory.read_below_all hlt
        · simp [Memory.read]
      · rename_i h1 h2
        simp [Memory.read, h2, ih hm]

/-- The cells of a written buffer are old cells or the written one. -/
theorem Memory.mem_write {m : Memory} {a : Nat} {v : Byte} {c : Host.Cell} (h : c ∈ Memory.write m a v) :
    c = (a, v) ∨ c ∈ m := by
  induction m with
  | nil =>
    simp only [Memory.write] at h
    split at h
    · simp at h
    · simpa using h
  | cons d m ih =>
    obtain ⟨e, x⟩ := d
    simp only [Memory.write] at h
    split at h
    · split at h
      · exact .inr h
      · simpa using h
    · split at h
      · split at h
        · exact .inr (List.mem_cons_of_mem _ h)
        · rcases List.mem_cons.mp h with rfl | h
          · exact .inl rfl
          · exact .inr (List.mem_cons_of_mem _ h)
      · rcases List.mem_cons.mp h with rfl | h
        · exact .inr (by simp)
        · rcases ih h with h | h
          · exact .inl h
          · exact .inr (List.mem_cons_of_mem _ h)

/-- A write keeps the canonical form. -/
theorem Memory.write_wf {m : Memory} (a : Nat) (v : Byte) (h : Memory.wf m = true) :
    Memory.wf (Memory.write m a v) = true := by
  induction m with
  | nil =>
    simp only [Memory.write]
    split
    · rfl
    · rename_i hv
      exact Memory.wf_cons.mpr ⟨hv, by simp, rfl⟩
  | cons c m ih =>
    obtain ⟨e, x⟩ := c
    obtain ⟨hx, hlt, hm⟩ := Memory.wf_cons.mp h
    simp only [Memory.write]
    split
    · rename_i h1
      split
      · exact h
      · rename_i hv
        refine Memory.wf_cons.mpr ⟨hv, ?_, h⟩
        intro c hc
        rcases List.mem_cons.mp hc with rfl | hc
        · exact h1
        · exact lt_trans h1 (hlt c hc)
    · split
      · rename_i h1 h2
        subst h2
        split
        · exact hm
        · rename_i hv
          exact Memory.wf_cons.mpr ⟨hv, hlt, hm⟩
      · rename_i h1 h2
        refine Memory.wf_cons.mpr ⟨hx, ?_, ih hm⟩
        intro c hc
        rcases Memory.mem_write hc with rfl | hc
        · exact lt_of_le_of_ne (not_lt.mp h1) (Ne.symm h2)
        · exact hlt c hc

/-- Dropping the bytes from an address on keeps the canonical form. -/
theorem Memory.below_wf {m : Memory} (limit : Nat) (h : Memory.wf m = true) : Memory.wf (Memory.below m limit) = true := by
  induction m with
  | nil => rfl
  | cons c m ih =>
    obtain ⟨e, x⟩ := c
    obtain ⟨hx, hlt, hm⟩ := Memory.wf_cons.mp h
    simp only [Memory.below, List.filter_cons]
    split
    · exact Memory.wf_cons.mpr ⟨hx, fun c hc => hlt c (List.mem_filter.mp hc).1, ih hm⟩
    · exact ih hm

/-- The cells of a cut buffer lie below the cut. -/
theorem Memory.mem_below {m : Memory} {limit : Nat} {c : Host.Cell} (h : c ∈ Memory.below m limit) :
    c ∈ m ∧ c.1 < limit := by
  simpa [Memory.below] using List.mem_filter.mp h

/-- A cut buffer reads as before below the cut and 0 from there on. -/
theorem Memory.read_below (m : Memory) (limit a : Nat) :
    Memory.read (Memory.below m limit) a = if a < limit then Memory.read m a else 0 := by
  induction m with
  | nil => simp [Memory.below, Memory.read]
  | cons c m ih =>
    obtain ⟨e, x⟩ := c
    simp only [Memory.below, List.filter_cons] at ih ⊢
    by_cases he : e < limit
    · simp only [he, decide_true, if_true, Memory.read, ih]
      by_cases hae : a = e
      · simp [hae, he]
      · simp [hae]
    · simp only [he, decide_false, Bool.false_eq_true, if_false, ih, Memory.read]
      by_cases ha : a < limit
      · have : a ≠ e := fun h => he (h ▸ ha)
        simp [ha, this]
      · simp [ha]

/-- Two canonical buffers that read alike are the same list. -/
theorem Memory.ext_of_reads {m m' : Memory} (h : Memory.wf m = true) (h' : Memory.wf m' = true)
    (hr : ∀ a, Memory.read m a = Memory.read m' a) : m = m' := by
  induction m generalizing m' with
  | nil =>
    cases m' with
    | nil => rfl
    | cons c m' =>
      obtain ⟨e, x⟩ := c
      have := hr e
      simp [Memory.read] at this
      exact absurd this.symm (Memory.wf_cons.mp h').1
  | cons c m ih =>
    obtain ⟨e, x⟩ := c
    obtain ⟨hx, hlt, hm⟩ := Memory.wf_cons.mp h
    cases m' with
    | nil =>
      have := hr e
      simp [Memory.read] at this
      exact absurd this hx
    | cons d m' =>
      obtain ⟨f, y⟩ := d
      obtain ⟨hy, hlt', hm'⟩ := Memory.wf_cons.mp h'
      have hef : e = f := by
        rcases lt_trichotomy e f with hlt1 | heq | hgt
        · have h0 : Memory.read ((f, y) :: m') e = 0 := by
            apply Memory.read_below_all
            intro c hc
            rcases List.mem_cons.mp hc with rfl | hc
            · exact hlt1
            · exact lt_trans hlt1 (hlt' c hc)
          have := hr e
          rw [h0] at this
          simp [Memory.read] at this
          exact absurd this hx
        · exact heq
        · have h0 : Memory.read ((e, x) :: m) f = 0 := by
            apply Memory.read_below_all
            intro c hc
            rcases List.mem_cons.mp hc with rfl | hc
            · exact hgt
            · exact lt_trans hgt (hlt c hc)
          have := hr f
          rw [h0] at this
          simp [Memory.read] at this
          exact absurd this.symm hy
      subst hef
      have hxy : x = y := by simpa [Memory.read] using hr e
      subst hxy
      congr 1
      apply ih hm hm'
      intro a
      by_cases ha : a = e
      · subst ha
        rw [Memory.read_below_all hlt, Memory.read_below_all hlt']
      · simpa [Memory.read, ha] using hr a

/-- Several writes, in order. -/
def Memory.writes (m : Memory) (ws : List (Nat × Byte)) : Memory := ws.foldl (fun m w => Memory.write m w.1 w.2) m

theorem Memory.writes_wf {m : Memory} (ws : List (Nat × Byte)) (h : Memory.wf m = true) :
    Memory.wf (Memory.writes m ws) = true := by
  induction ws generalizing m with
  | nil => exact h
  | cons w ws ih => exact ih (Memory.write_wf w.1 w.2 h)

/-- Writes leave every byte alone that none of them names. -/
theorem Memory.read_writes_other {ws : List (Nat × Byte)} {a : Nat} (h : ∀ w ∈ ws, w.1 ≠ a) (m : Memory) :
    Memory.read (Memory.writes m ws) a = Memory.read m a := by
  induction ws generalizing m with
  | nil => rfl
  | cons w ws ih =>
    have h1 : a ≠ w.1 := (h w (by simp)).symm
    show Memory.read (Memory.writes (Memory.write m w.1 w.2) ws) a = _
    rw [ih (fun w hw => h w (by simp [hw])), Memory.read_write_ne m w.2 h1]

/-- Writes that agree on a byte leave it at the value they write. -/
theorem Memory.read_writes_of_agree {ws : List (Nat × Byte)} {a : Nat} {v : Byte} {m : Memory} (hm : Memory.wf m = true)
    (hex : ∃ w ∈ ws, w.1 = a) (hagree : ∀ w ∈ ws, w.1 = a → w.2 = v) : Memory.read (Memory.writes m ws) a = v := by
  induction ws generalizing m with
  | nil => simp at hex
  | cons w ws ih =>
    show Memory.read (Memory.writes (Memory.write m w.1 w.2) ws) a = v
    by_cases hin : ∃ u ∈ ws, u.1 = a
    · exact ih (Memory.write_wf _ _ hm) hin (fun u hu => hagree u (by simp [hu]))
    · have hw : w.1 = a := by
        obtain ⟨u, hu, hua⟩ := hex
        rcases List.mem_cons.mp hu with rfl | hu
        · exact hua
        · exact absurd ⟨u, hu, hua⟩ hin
      rw [Memory.read_writes_other (fun u hu hua => hin ⟨u, hu, hua⟩), ← hw, Memory.read_write_same _ _ hm]
      exact hagree w (by simp) hw

end Sys2Proof.Machine
end

