-- ==== Sys2Proof/Laws/State.lean ====
section
/-! SUPPORT. One lemma per field and named update of State, true by rfl. -/

namespace Sys2Proof.Machine

@[simp] theorem respond_cfg (s : State) (r : Response) : (s.respond r).cfg = s.cfg := rfl
@[simp] theorem respond_n (s : State) (r : Response) : (s.respond r).n = s.n := rfl
@[simp] theorem respond_bri (s : State) (r : Response) : (s.respond r).bri = s.bri := rfl
@[simp] theorem respond_tx (s : State) (r : Response) : (s.respond r).tx = s.tx := rfl
@[simp] theorem respond_active (s : State) (r : Response) : (s.respond r).active = s.active := rfl
@[simp] theorem respond_buf (s : State) (r : Response) : (s.respond r).buf = s.buf := rfl
@[simp] theorem respond_spiOpen (s : State) (r : Response) : (s.respond r).spiOpen = s.spiOpen := rfl
@[simp] theorem respond_padOe (s : State) (r : Response) : (s.respond r).padOe = s.padOe := rfl
@[simp] theorem respond_padOut (s : State) (r : Response) : (s.respond r).padOut = s.padOut := rfl
@[simp] theorem respond_engine (s : State) (r : Response) : (s.respond r).engine = s.engine := rfl
@[simp] theorem respond_rspPort (s : State) (r : Response) : (s.respond r).rspPort = some r := rfl
@[simp] theorem respond_wire (s : State) (r : Response) : (s.respond r).wire = s.wire := rfl
@[simp] theorem respond_rsp (s : State) (r : Response) : (s.respond r).rsp = s.rsp ++ [r] := rfl
@[simp] theorem respond_inputs (s : State) (r : Response) : (s.respond r).inputs = s.inputs := rfl

@[simp] theorem trace_cfg (s : State) (e : OutEvent) : (s.trace e).cfg = s.cfg := rfl
@[simp] theorem trace_n (s : State) (e : OutEvent) : (s.trace e).n = s.n := rfl
@[simp] theorem trace_bri (s : State) (e : OutEvent) : (s.trace e).bri = s.bri := rfl
@[simp] theorem trace_tx (s : State) (e : OutEvent) : (s.trace e).tx = s.tx := rfl
@[simp] theorem trace_active (s : State) (e : OutEvent) : (s.trace e).active = s.active := rfl
@[simp] theorem trace_buf (s : State) (e : OutEvent) : (s.trace e).buf = s.buf := rfl
@[simp] theorem trace_spiOpen (s : State) (e : OutEvent) : (s.trace e).spiOpen = s.spiOpen := rfl
@[simp] theorem trace_padOe (s : State) (e : OutEvent) : (s.trace e).padOe = s.padOe := rfl
@[simp] theorem trace_padOut (s : State) (e : OutEvent) : (s.trace e).padOut = s.padOut := rfl
@[simp] theorem trace_engine (s : State) (e : OutEvent) : (s.trace e).engine = s.engine := rfl
@[simp] theorem trace_rspPort (s : State) (e : OutEvent) : (s.trace e).rspPort = s.rspPort := rfl
@[simp] theorem trace_wire (s : State) (e : OutEvent) : (s.trace e).wire = s.wire ++ [.out e] := rfl
@[simp] theorem trace_rsp (s : State) (e : OutEvent) : (s.trace e).rsp = s.rsp := rfl
@[simp] theorem trace_inputs (s : State) (e : OutEvent) : (s.trace e).inputs = s.inputs := rfl

@[simp] theorem portsQuiet_cfg (s : State) : (s.portsQuiet).cfg = s.cfg := rfl
@[simp] theorem portsQuiet_n (s : State) : (s.portsQuiet).n = s.n := rfl
@[simp] theorem portsQuiet_bri (s : State) : (s.portsQuiet).bri = s.bri := rfl
@[simp] theorem portsQuiet_tx (s : State) : (s.portsQuiet).tx = s.tx := rfl
@[simp] theorem portsQuiet_active (s : State) : (s.portsQuiet).active = s.active := rfl
@[simp] theorem portsQuiet_buf (s : State) : (s.portsQuiet).buf = s.buf := rfl
@[simp] theorem portsQuiet_spiOpen (s : State) : (s.portsQuiet).spiOpen = s.spiOpen := rfl
@[simp] theorem portsQuiet_padOe (s : State) : (s.portsQuiet).padOe = s.padOe := rfl
@[simp] theorem portsQuiet_padOut (s : State) : (s.portsQuiet).padOut = s.padOut := rfl
@[simp] theorem portsQuiet_engine (s : State) : (s.portsQuiet).engine = s.engine := rfl
@[simp] theorem portsQuiet_rspPort (s : State) : (s.portsQuiet).rspPort = none := rfl
@[simp] theorem portsQuiet_wire (s : State) : (s.portsQuiet).wire = s.wire := rfl
@[simp] theorem portsQuiet_rsp (s : State) : (s.portsQuiet).rsp = s.rsp := rfl
@[simp] theorem portsQuiet_inputs (s : State) : (s.portsQuiet).inputs = s.inputs := rfl

@[simp] theorem resetOf_cfg (p : Config.Params) : (State.resetOf p).cfg = p := rfl
@[simp] theorem resetOf_n (p : Config.Params) : (State.resetOf p).n = resetCount p := rfl
@[simp] theorem resetOf_bri (p : Config.Params) : (State.resetOf p).bri = 0 := rfl
@[simp] theorem resetOf_tx (p : Config.Params) : (State.resetOf p).tx = p.txInit := rfl
@[simp] theorem resetOf_active (p : Config.Params) : (State.resetOf p).active = false := rfl
@[simp] theorem resetOf_buf (p : Config.Params) : (State.resetOf p).buf = [] := rfl
@[simp] theorem resetOf_spiOpen (p : Config.Params) : (State.resetOf p).spiOpen = List.replicate p.pSpi false := rfl
@[simp] theorem resetOf_padOe (p : Config.Params) : (State.resetOf p).padOe = List.replicate p.pPins false := rfl
@[simp] theorem resetOf_padOut (p : Config.Params) : (State.resetOf p).padOut = List.replicate p.pPins false := rfl
@[simp] theorem resetOf_engine (p : Config.Params) : (State.resetOf p).engine = .idle := rfl
@[simp] theorem resetOf_rspPort (p : Config.Params) : (State.resetOf p).rspPort = none := rfl
@[simp] theorem resetOf_wire (p : Config.Params) : (State.resetOf p).wire = [.reset] := rfl
@[simp] theorem resetOf_rsp (p : Config.Params) : (State.resetOf p).rsp = [] := rfl
@[simp] theorem resetOf_inputs (p : Config.Params) : (State.resetOf p).inputs = [] := rfl

@[simp] theorem resetDone_cfg (s : State) : (s.resetDone).cfg = s.cfg := rfl
@[simp] theorem resetDone_n (s : State) : (s.resetDone).n = resetCount s.cfg := rfl
@[simp] theorem resetDone_bri (s : State) : (s.resetDone).bri = 0 := rfl
@[simp] theorem resetDone_tx (s : State) : (s.resetDone).tx = s.cfg.txInit := rfl
@[simp] theorem resetDone_active (s : State) : (s.resetDone).active = false := rfl
@[simp] theorem resetDone_buf (s : State) : (s.resetDone).buf = [] := rfl
@[simp] theorem resetDone_spiOpen (s : State) : (s.resetDone).spiOpen = List.replicate s.cfg.pSpi false := rfl
@[simp] theorem resetDone_padOe (s : State) : (s.resetDone).padOe = List.replicate s.cfg.pPins false := rfl
@[simp] theorem resetDone_padOut (s : State) : (s.resetDone).padOut = List.replicate s.cfg.pPins false := rfl
@[simp] theorem resetDone_engine (s : State) : (s.resetDone).engine = .idle := rfl
@[simp] theorem resetDone_rspPort (s : State) : (s.resetDone).rspPort = none := rfl
@[simp] theorem resetDone_wire (s : State) : (s.resetDone).wire = s.wire ++ [.reset] := rfl
@[simp] theorem resetDone_rsp (s : State) : (s.resetDone).rsp = s.rsp := rfl
@[simp] theorem resetDone_inputs (s : State) : (s.resetDone).inputs = s.inputs := rfl

@[simp] theorem resetEdge_cfg (s : State) : (s.resetEdge).cfg = s.cfg := rfl
@[simp] theorem resetEdge_n (s : State) : (s.resetEdge).n = resetCount s.cfg := rfl
@[simp] theorem resetEdge_bri (s : State) : (s.resetEdge).bri = 0 := rfl
@[simp] theorem resetEdge_tx (s : State) : (s.resetEdge).tx = s.cfg.txInit := rfl
@[simp] theorem resetEdge_active (s : State) : (s.resetEdge).active = false := rfl
@[simp] theorem resetEdge_buf (s : State) : (s.resetEdge).buf = Memory.below s.buf (3 * (resetCount s.cfg).toNat) := rfl
@[simp] theorem resetEdge_spiOpen (s : State) : (s.resetEdge).spiOpen = List.replicate s.cfg.pSpi false := rfl
@[simp] theorem resetEdge_padOe (s : State) : (s.resetEdge).padOe = List.replicate s.cfg.pPins false := rfl
@[simp] theorem resetEdge_padOut (s : State) : (s.resetEdge).padOut = List.replicate s.cfg.pPins false := rfl
@[simp] theorem resetEdge_engine (s : State) : (s.resetEdge).engine = .running ⟨false, 0, zeroWrites (resetCount s.cfg).toNat, none⟩ := rfl
@[simp] theorem resetEdge_rspPort (s : State) : (s.resetEdge).rspPort = none := rfl
@[simp] theorem resetEdge_wire (s : State) : (s.resetEdge).wire = s.wire ++ [.reset] := rfl
@[simp] theorem resetEdge_rsp (s : State) : (s.resetEdge).rsp = s.rsp := rfl
@[simp] theorem resetEdge_inputs (s : State) : (s.resetEdge).inputs = s.inputs := rfl

@[simp] theorem startWord_cfg (w : Word) (s : State) : (startWord w s).cfg = s.cfg := rfl
@[simp] theorem startWord_n (w : Word) (s : State) : (startWord w s).n = s.n := rfl
@[simp] theorem startWord_bri (w : Word) (s : State) : (startWord w s).bri = s.bri := rfl
@[simp] theorem startWord_tx (w : Word) (s : State) : (startWord w s).tx = s.tx := rfl
@[simp] theorem startWord_active (w : Word) (s : State) : (startWord w s).active = s.active := rfl
@[simp] theorem startWord_buf (w : Word) (s : State) : (startWord w s).buf = s.buf := rfl
@[simp] theorem startWord_spiOpen (w : Word) (s : State) : (startWord w s).spiOpen = s.spiOpen := rfl
@[simp] theorem startWord_padOe (w : Word) (s : State) : (startWord w s).padOe = s.padOe := rfl
@[simp] theorem startWord_padOut (w : Word) (s : State) : (startWord w s).padOut = s.padOut := rfl
@[simp] theorem startWord_engine (w : Word) (s : State) : (startWord w s).engine = .running ⟨(planWord w s).isShow, 0, (planWord w s).ops, some (planWord w s).answer⟩ := rfl
@[simp] theorem startWord_rspPort (w : Word) (s : State) : (startWord w s).rspPort = s.rspPort := rfl
@[simp] theorem startWord_wire (w : Word) (s : State) : (startWord w s).wire = s.wire := rfl
@[simp] theorem startWord_rsp (w : Word) (s : State) : (startWord w s).rsp = s.rsp := rfl
@[simp] theorem startWord_inputs (w : Word) (s : State) : (startWord w s).inputs = s.inputs := rfl

end Sys2Proof.Machine
end

