-- ==== Sys2Proof/Laws/Ops.lean ====
section
/-! SUPPORT. What each shared operation can do, said once: `drive`, `applyOp`, `runOps`, `Plan.run`. -/

namespace Sys2Proof.Machine

/-- The output event of an effect, if it is one. -/
def MicroOp.events : MicroOp → List OutEvent
  | .drive e => [e]
  | _ => []

/-- The output events of effects, in order. -/
def opEvents (ops : List MicroOp) : List OutEvent := ops.flatMap MicroOp.events

@[simp] theorem opEvents_nil : opEvents [] = [] := rfl

@[simp] theorem opEvents_cons (op : MicroOp) (ops : List MicroOp) : opEvents (op :: ops) = op.events ++ opEvents ops := rfl

theorem opEvents_append (a b : List MicroOp) : opEvents (a ++ b) = opEvents a ++ opEvents b := by
  simp [opEvents]

@[simp] theorem opEvents_map_drive (es : List OutEvent) : opEvents (es.map MicroOp.drive) = es := by
  induction es with
  | nil => rfl
  | cons e es ih => simp [MicroOp.events, ih]

/-! ### Outputs -/

/-- A driven output changes the outputs and adds its event; it touches nothing else. -/
theorem drive_frame {e : OutEvent} {s t : State} (h : drive e s = .ok t) :
    t = { s with spiOpen := t.spiOpen, padOe := t.padOe, padOut := t.padOut, wire := s.wire ++ [.out e] } := by
  cases e <;> simp only [drive] at h <;> split at h <;>
    first
    | (cases h; rfl)
    | simp at h

/-- An output that exists can be driven. -/
theorem drive_ok (e : OutEvent) (s : State)
    (h : match e with
      | .spiOpen k => k.toNat < s.cfg.pSpi
      | .spiClose k => k.toNat < s.cfg.pSpi
      | .spiByte k _ => k.toNat < s.cfg.pSpi
      | .padMode p _ => p.toNat < s.cfg.pPins
      | .padWrite p _ => p.toNat < s.cfg.pPins) : ∃ t, drive e s = .ok t := by
  cases e <;> simp only [drive] <;> rw [if_pos h] <;> exact ⟨_, rfl⟩

/-! ### Effects -/

/-- An effect changes registers, buffer and outputs and adds its event; the parameters, the engine, the ports, the response
trace and the inputs are no concern of it. -/
theorem applyOp_frame {op : MicroOp} {s t : State} (h : applyOp op s = .ok t) :
    t = { s with n := t.n, bri := t.bri, tx := t.tx, active := t.active, buf := t.buf, spiOpen := t.spiOpen,
                 padOe := t.padOe, padOut := t.padOut, wire := s.wire ++ op.events.map .out } := by
  cases op with
  | drive e => rw [drive_frame h]; simp [MicroOp.events]
  | memWrite a v =>
    simp only [applyOp] at h
    split at h
    · cases h; simp [MicroOp.events]
    · simp at h
  | setN n => cases h; simp [MicroOp.events]
  | setBri b => cases h; simp [MicroOp.events]
  | setTx t => cases h; simp [MicroOp.events]
  | setActive => cases h; simp [MicroOp.events]

/-- The frame of a list of effects. -/
theorem runOps_frame {ops : List MicroOp} {s t : State} (h : runOps ops s = .ok t) :
    t = { s with n := t.n, bri := t.bri, tx := t.tx, active := t.active, buf := t.buf, spiOpen := t.spiOpen,
                 padOe := t.padOe, padOut := t.padOut, wire := s.wire ++ (opEvents ops).map .out } := by
  induction ops generalizing s with
  | nil => cases h; simp
  | cons op ops ih =>
    simp only [runOps] at h
    cases hop : applyOp op s with
    | error f => rw [hop] at h; simp at h
    | ok u =>
      rw [hop] at h
      have h1 := ih h
      rw [applyOp_frame hop] at h1
      rw [h1]
      simp

@[simp] theorem runOps_nil (s : State) : runOps [] s = .ok s := rfl

theorem runOps_cons_ok {op : MicroOp} {ops : List MicroOp} {s t : State} (h : applyOp op s = .ok t) :
    runOps (op :: ops) s = runOps ops t := by
  simp [runOps, h]

theorem runOps_append (a b : List MicroOp) (s : State) :
    runOps (a ++ b) s = match runOps a s with
      | .ok t => runOps b t
      | .error f => .error f := by
  induction a generalizing s with
  | nil => rfl
  | cons op a ih =>
    simp only [List.cons_append, runOps]
    cases applyOp op s with
    | error f => rfl
    | ok t => exact ih t

theorem runOps_append_ok {a b : List MicroOp} {s t : State} (h : runOps a s = .ok t) :
    runOps (a ++ b) s = runOps b t := by
  rw [runOps_append, h]

/-- A prefix of effects that run to their end runs to its end. -/
theorem runOps_prefix_ok {a b : List MicroOp} {s t : State} (h : runOps (a ++ b) s = .ok t) :
    ∃ u, runOps a s = .ok u ∧ runOps b u = .ok t := by
  rw [runOps_append] at h
  cases ha : runOps a s with
  | error f => rw [ha] at h; simp at h
  | ok u => rw [ha] at h; exact ⟨u, rfl, h⟩

/-- A state with another engine, ports, traces and inputs: what no effect reads. -/
def State.reshell (s : State) (e : Engine) (rp : Option Response) (w : List WireEvent) (r : List Response)
    (i : List Input) : State :=
  { s with engine := e, rspPort := rp, wire := w, rsp := r, inputs := i }

/-- The result of an effect does not depend on the engine, the ports, the traces or the inputs. -/
theorem applyOp_reshell {op : MicroOp} {s t : State} (h : applyOp op s = .ok t) (e : Engine) (rp : Option Response)
    (w : List WireEvent) (r : List Response) (i : List Input) :
    applyOp op (s.reshell e rp w r i) = .ok (t.reshell e rp (w ++ op.events.map .out) r i) := by
  cases op with
  | drive ev =>
    cases ev <;> simp only [applyOp, drive] at h ⊢ <;> split at h <;>
      first
      | (rename_i hc; injection h with h; subst h; exact if_pos hc)
      | simp at h
  | memWrite a v =>
    simp only [applyOp] at h
    split at h
    · rename_i hc
      cases h
      simp [applyOp, MicroOp.events, State.reshell, hc]
    · simp at h
  | setN n => cases h; simp [applyOp, MicroOp.events, State.reshell]
  | setBri b => cases h; simp [applyOp, MicroOp.events, State.reshell]
  | setTx t => cases h; simp [applyOp, MicroOp.events, State.reshell]
  | setActive => cases h; simp [applyOp, MicroOp.events, State.reshell]

theorem runOps_reshell {ops : List MicroOp} {s t : State} (h : runOps ops s = .ok t) (e : Engine) (rp : Option Response)
    (w : List WireEvent) (r : List Response) (i : List Input) :
    runOps ops (s.reshell e rp w r i) = .ok (t.reshell e rp (w ++ (opEvents ops).map .out) r i) := by
  induction ops generalizing s w with
  | nil => cases h; simp
  | cons op ops ih =>
    simp only [runOps] at h
    cases hop : applyOp op s with
    | error f => rw [hop] at h; simp at h
    | ok u =>
      rw [hop] at h
      rw [runOps_cons_ok (applyOp_reshell hop e rp w r i), ih h]
      simp

/-! ### Buffer writes -/

/-- The effects of several byte writes. -/
def writeOps (ws : List (Nat × Byte)) : List MicroOp := ws.map (fun w => .memWrite w.1 w.2)

/-- Byte writes below 3N are done, and change the buffer only. -/
theorem runOps_writeOps {ws : List (Nat × Byte)} {s : State} (h : ∀ w ∈ ws, w.1 < 3 * s.n.toNat) :
    runOps (writeOps ws) s = .ok { s with buf := Memory.writes s.buf ws } := by
  induction ws generalizing s with
  | nil => rfl
  | cons w ws ih =>
    have hw : applyOp (.memWrite w.1 w.2) s = .ok { s with buf := Memory.write s.buf w.1 w.2 } := by
      simp [applyOp, h w (by simp)]
    show runOps (.memWrite w.1 w.2 :: writeOps ws) s = _
    rw [runOps_cons_ok hw]
    exact ih (s := { s with buf := Memory.write s.buf w.1 w.2 }) (fun u hu => h u (by simp [hu]))

@[simp] theorem opEvents_writeOps (ws : List (Nat × Byte)) : opEvents (writeOps ws) = [] := by
  induction ws with
  | nil => rfl
  | cons w ws ih => exact ih

/-- The byte writes of a pixel. -/
def pixelBytes (o : ChannelOrder) (i : Nat) (r g b : Byte) : List (Nat × Byte) :=
  [(byteAddr i (offR o), r), (byteAddr i (offG o), g), (byteAddr i (offB o), b)]

theorem pixelWrites_eq (o : ChannelOrder) (i : Nat) (r g b : Byte) :
    pixelWrites o i r g b = writeOps (pixelBytes o i r g b) := rfl

theorem flatMap_pixelWrites_eq (o : ChannelOrder) (is : List Nat) (r g b : Byte) :
    is.flatMap (fun i => pixelWrites o i r g b) = writeOps (is.flatMap (fun i => pixelBytes o i r g b)) := by
  simp [pixelWrites_eq, writeOps, List.map_flatMap]

theorem zeroWrites_eq (count : Nat) : zeroWrites count = writeOps ((List.range (3 * count)).map (fun a => (a, 0))) := by
  simp [zeroWrites, writeOps]

/-- The three slots of a pixel are 0, 1 and 2 in some order (R36). -/
theorem offsets_perm (o : ChannelOrder) :
    offR o < 3 ∧ offG o < 3 ∧ offB o < 3 ∧ offR o ≠ offG o ∧ offR o ≠ offB o ∧ offG o ≠ offB o := by
  cases o <;> decide

/-- The bytes of a pixel lie in its three addresses. -/
theorem pixelBytes_range {o : ChannelOrder} {i : Nat} {r g b : Byte} {w : Nat × Byte} (h : w ∈ pixelBytes o i r g b) :
    3 * i ≤ w.1 ∧ w.1 < 3 * (i + 1) := by
  obtain ⟨h1, h2, h3, -⟩ := offsets_perm o
  simp only [pixelBytes, byteAddr, List.mem_cons, List.not_mem_nil, or_false] at h
  rcases h with rfl | rfl | rfl <;> refine ⟨?_, ?_⟩ <;> dsimp only <;> omega

/-! ### Driving bytes -/

/-- Bytes handed to a peripheral that exists change the wire trace only. -/
theorem runOps_spiBytes (k : Byte) (xs : List Byte) (s : State) (hk : k.toNat < s.cfg.pSpi) :
    runOps (xs.map (fun x => .drive (.spiByte k x))) s =
      .ok { s with wire := s.wire ++ xs.map (fun x => .out (.spiByte k x)) } := by
  induction xs generalizing s with
  | nil => simp
  | cons x xs ih =>
    have h1 : applyOp (.drive (.spiByte k x)) s = .ok (s.trace (.spiByte k x)) := by
      simp [applyOp, drive, hk]
    rw [List.map_cons, runOps_cons_ok h1, ih (s.trace (.spiByte k x)) hk]
    simp [State.trace]

/-- A pad that exists is written. -/
theorem applyOp_padWrite (p : Byte) (v : Bool) (s : State) (hp : p.toNat < s.cfg.pPins) :
    applyOp (.drive (.padWrite p v)) s =
      .ok (State.trace { s with padOut := s.padOut.set p.toNat v } (.padWrite p v)) := by
  simp [applyOp, drive, hp]

/-! ### A command as one step -/

/-- What a command's one step can be: its effects done and its response given, or a fault. -/
theorem Plan.run_next {p : Plan} {s t : State} (h : p.run s = .next t) :
    ∃ u, runOps p.ops s = .ok u ∧ t = u.respond p.answer := by
  simp only [Plan.run] at h
  cases hr : runOps p.ops s with
  | error f => rw [hr] at h; simp at h
  | ok u => rw [hr] at h; exact ⟨u, rfl, by simpa using h.symm⟩

theorem Plan.run_of_ok {p : Plan} {s u : State} (h : runOps p.ops s = .ok u) : p.run s = .next (u.respond p.answer) := by
  simp [Plan.run, h]

/-- Every command's one step is its plan's. -/
theorem exec_eq_plan (i : Instr) (s : State) : exec i s = (plan i s).run s := by
  cases i <;> rfl

/-- Effects are never refused. -/
theorem exec_not_refused (i : Instr) (s : State) (r : Refusal) : exec i s ≠ .refused r := by
  rw [exec_eq_plan, Plan.run]
  cases runOps (plan i s).ops s <;> simp

end Sys2Proof.Machine
end

