-- ==== Sys2Proof/Laws/Inv.lean ====
section
/-! SUPPORT. What `Sound` and `OutputsMatch` depend on, and that a legal effect keeps a state sound. -/

namespace Sys2Proof.Machine

/-- Soundness is about parameters, N, TXSEL, the buffer and the number of outputs only. -/
theorem Sound.of_same {s t : State} (h : Sound s) (hcfg : t.cfg = s.cfg) (hn : t.n = s.n) (htx : t.tx = s.tx)
    (hbuf : t.buf = s.buf) (hspi : t.spiOpen = s.spiOpen) (hoe : t.padOe = s.padOe) (hout : t.padOut = s.padOut) :
    Sound t := by
  obtain ⟨h1, h2, h3, h4, h5, h6, h7, h8⟩ := h
  constructor <;> simp only [hcfg, hn, htx, hbuf, hspi, hoe, hout] <;> assumption

/-- That the outputs match is about the outputs, ACTIVE and TXSEL only. -/
theorem OutputsMatch.of_same {s t : State} (h : OutputsMatch s) (hspi : t.spiOpen = s.spiOpen) (hoe : t.padOe = s.padOe)
    (hact : t.active = s.active) (htx : t.tx = s.tx) : OutputsMatch t := by
  obtain ⟨h1, h2⟩ := h
  constructor
  · intro k; simp only [State.spiOpenAt, hspi, hact, htx] at h1 ⊢; exact h1 k
  · intro p; simp only [State.padOeAt, hoe, hact, htx] at h2 ⊢; exact h2 p

/-- A legal effect keeps a state sound. -/
theorem applyOp_sound {op : MicroOp} {s t : State} (hs : Sound s) (hl : op.legal s.cfg = true)
    (h : applyOp op s = .ok t) : Sound t := by
  obtain ⟨h1, h2, h3, h4, h5, h6, h7, h8⟩ := hs
  cases op with
  | drive e =>
    cases e <;> simp only [applyOp, drive] at h <;> split at h <;>
      first
      | (cases h; exact ⟨h1, h2, h3, h4, h5, by simpa using h6, by simpa using h7, by simpa using h8⟩)
      | simp at h
  | memWrite a v =>
    simp only [applyOp] at h
    split at h
    · rename_i ha
      cases h
      refine ⟨h1, h2, h3, Memory.write_wf _ _ h4, ?_, h6, h7, h8⟩
      intro c hc
      rcases Memory.mem_write hc with rfl | hc
      · exact ha
      · exact h5 _ hc
    · simp at h
  | setN n =>
    cases h
    simp only [MicroOp.legal, decide_eq_true_eq] at hl
    exact ⟨h1, hl, h3, Memory.below_wf _ h4, fun c hc => (Memory.mem_below hc).2, h6, h7, h8⟩
  | setBri b => cases h; exact ⟨h1, h2, h3, h4, h5, h6, h7, h8⟩
  | setTx u => cases h; exact ⟨h1, h2, hl, h4, h5, h6, h7, h8⟩
  | setActive => cases h; exact ⟨h1, h2, h3, h4, h5, h6, h7, h8⟩

/-- Legal effects, done in order, keep a state sound. -/
theorem runOps_sound {ops : List MicroOp} {s t : State} (hs : Sound s) (hl : ∀ op ∈ ops, op.legal s.cfg = true)
    (h : runOps ops s = .ok t) : Sound t := by
  induction ops generalizing s with
  | nil => cases h; exact hs
  | cons op ops ih =>
    simp only [runOps] at h
    cases hop : applyOp op s with
    | error f => rw [hop] at h; simp at h
    | ok u =>
      rw [hop] at h
      have hc : u.cfg = s.cfg := by rw [applyOp_frame hop]
      exact ih (applyOp_sound hs (hl op (by simp)) hop) (fun o ho => by rw [hc]; exact hl o (by simp [ho])) h

end Sys2Proof.Machine
end

