-- ==== Sys2Proof/Laws/Step.lean ====
section
/-! SUPPORT. One lemma for each thing a step can be, and the meanings as plans. -/

namespace Sys2Proof.Machine

theorem step_bad {s : State} (h : s.cfg.wf = false) : step s = .refused .badElaboration := by
  simp [step, h]

theorem step_idle {s : State} (hw : s.cfg.wf = true) (h : s.inputs = []) : step s = .next s := by
  simp [step, hw, h]

theorem step_input {s : State} {inp : Input} {rest : List Input} (hw : s.cfg.wf = true) (h : s.inputs = inp :: rest) :
    step s = react inp { s with inputs := rest } := by
  simp [step, hw, h]

theorem react_command_busy {w : Word} {s : State} (h : s.busy = true) : react (.command w) s = .next s := by
  simp [react, h]

theorem react_accept_busy {w : Word} {s : State} (h : s.busy = true) : react (.accept w) s = .next s := by
  simp [react, h]

theorem react_command_ready {w : Word} {s : State} (h : s.busy = false) :
    react (.command w) s = runWord w s.portsQuiet := by
  simp [react, h]

theorem react_accept_ready {w : Word} {s : State} (h : s.busy = false) :
    react (.accept w) s = .next (startWord w s.portsQuiet) := by
  simp [react, h]

theorem runWord_ok {w : Word} {i : Instr} {s : State} (h : decode w = .ok i) : runWord w s = exec i s := by
  simp [runWord, h]

theorem runWord_error {w : Word} {e : Reject} {s : State} (h : decode w = .error e) :
    runWord w s = .next (s.respond illegalResponse) := by
  simp [runWord, h]

/-- A word run to its response is its plan run. -/
theorem runWord_eq_plan (w : Word) (s : State) : runWord w s = (planWord w s).run s := by
  unfold runWord planWord
  cases decode w with
  | ok i => exact exec_eq_plan i s
  | error e => rfl

theorem busy_eq_false_iff {s : State} : s.busy = false ↔ s.engine = .idle := by
  cases h : s.engine <;> simp [State.busy, h]

theorem cmdReady_iff {s : State} : s.cmdReady = true ↔ s.busy = false ∧ s.rst = false := by
  simp [State.cmdReady]

/-- A block ready for a word is not busy, whatever its inputs are then set to. -/
theorem busy_of_cmdReady {s : State} (h : s.cmdReady = true) : s.busy = false := (cmdReady_iff.mp h).1

@[simp] theorem rst_nil {s : State} (h : s.inputs = []) : s.rst = false := by
  simp [State.rst, h]

theorem rst_cons {s : State} {inp : Input} {rest : List Input} (h : s.inputs = inp :: rest) : s.rst = inp.rstLevel := by
  simp [State.rst, h]

/-- `rst` is 1 exactly when a reset is the next input. -/
theorem rst_iff {s : State} : s.rst = true ↔ ∃ inp ∈ s.inputs.head?, inp = .rst ∨ inp = .reset := by
  cases h : s.inputs with
  | nil => simp [State.rst, h]
  | cons inp rest => cases inp <;> simp [State.rst, h, Input.rstLevel]

theorem tick_idle {b : Bool} {s : State} (h : s.engine = .idle) : tick b s = .next s.portsQuiet := by
  simp [tick, h]

theorem tick_end {b : Bool} {s : State} {f : Flight} (h : s.engine = .running f) (hp : f.pending = []) :
    tick b s = .next (s.finish f.answer) := by
  simp [tick, h, hp]

theorem tick_wait {s : State} {f : Flight} {op : MicroOp} {ops : List MicroOp} (h : s.engine = .running f)
    (hp : f.pending = op :: ops) (hw : op.waits = true) : tick false s = .next s := by
  simp [tick, h, hp, hw]

theorem tick_effect {b : Bool} {s t : State} {f : Flight} {op : MicroOp} {ops : List MicroOp} (h : s.engine = .running f)
    (hp : f.pending = op :: ops) (hw : (op.waits && !b) = false) (ht : applyOp op s = .ok t) :
    tick b s = .next { t with engine := .running { f with done := f.done + 1, pending := ops } } := by
  simp [tick, h, hp, hw, ht]

/-- What a step can do, said once: nothing when no input is left, else what `react` does with the first. -/
theorem step_cases {s t : State} (h : step s = .next t) :
    s.cfg.wf = true ∧
      ((s.inputs = [] ∧ t = s) ∨ ∃ inp rest, s.inputs = inp :: rest ∧ react inp { s with inputs := rest } = .next t) := by
  by_cases hw : s.cfg.wf = true
  · refine ⟨hw, ?_⟩
    cases hi : s.inputs with
    | nil => rw [step_idle hw hi] at h; exact .inl ⟨rfl, by simpa using h.symm⟩
    | cons inp rest => rw [step_input hw hi] at h; exact .inr ⟨inp, rest, rfl, h⟩
  · rw [step_bad (by simpa using hw)] at h; simp at h

end Sys2Proof.Machine
end

