-- ==== Sys2Proof/Laws/Observe.lean ====
section
/-! SUPPORT. The pads' levels as the wire trace tells them (R12, R25, R100). -/

namespace Sys2Proof.Machine

@[simp] theorem waveform_nil (p : Pads) : waveform p [] = [] := rfl

/-- An event that changes no level is not in the waveform. -/
theorem waveform_skip {p : Pads} {e : WireEvent} {es : List WireEvent} (h : p.after e = p) :
    waveform p (e :: es) = waveform p es := by
  simp [waveform, h]

/-- An event that changes a level is in the waveform. -/
theorem waveform_keep {p : Pads} {e : WireEvent} {es : List WireEvent} (h : p.after e ≠ p) :
    waveform p (e :: es) = e :: waveform (p.after e) es := by
  simp [waveform, h]

/-- The waveform ends at the levels the trace ends at. -/
theorem waveform_foldl (p : Pads) (es : List WireEvent) : (waveform p es).foldl Pads.after p = es.foldl Pads.after p := by
  induction es generalizing p with
  | nil => rfl
  | cons e es ih =>
    by_cases h : p.after e = p
    · rw [waveform_skip h, ih, List.foldl_cons, h]
    · rw [waveform_keep h, List.foldl_cons, List.foldl_cons, ih]

/-- An output written sets the pads as its event tells. -/
theorem drive_pads {e : OutEvent} {s t : State} (h : drive e s = .ok t) : t.pads = s.pads.after (.out e) := by
  cases e <;> simp only [drive] at h <;> split at h <;> cases h <;> rfl

/-- An effect sets the pads as the events it traces tell. -/
theorem applyOp_pads {op : MicroOp} {s t : State} (h : applyOp op s = .ok t) :
    t.pads = (op.events.map WireEvent.out).foldl Pads.after s.pads := by
  cases op with
  | drive e => exact drive_pads h
  | memWrite a v => simp only [applyOp] at h; split at h <;> cases h; rfl
  | setN n => cases h; rfl
  | setBri b => cases h; rfl
  | setTx u => cases h; rfl
  | setActive => cases h; rfl

theorem runOps_pads {ops : List MicroOp} {s t : State} (h : runOps ops s = .ok t) :
    t.pads = ((opEvents ops).map WireEvent.out).foldl Pads.after s.pads := by
  induction ops generalizing s with
  | nil => cases h; rfl
  | cons op ops ih =>
    simp only [runOps] at h
    cases hop : applyOp op s with
    | error f => rw [hop] at h; simp at h
    | ok u =>
      rw [hop] at h
      rw [opEvents_cons, List.map_append, List.foldl_append, ← applyOp_pads hop]
      exact ih h

/-- A reset forces the pads as its event tells, where there is a level for every pad of the elaboration. -/
theorem reset_pads {s : State} (he : s.padOe.length = s.cfg.pPins) (ho : s.padOut.length = s.cfg.pPins) :
    s.resetEdge.pads = s.pads.after .reset ∧ s.resetDone.pads = s.pads.after .reset := by
  have h : (⟨List.replicate s.cfg.pPins false, List.replicate s.cfg.pPins false⟩ : Pads) = s.pads.after .reset := by
    simp [Pads.after, State.pads, List.map_const', he, ho]
  exact ⟨h, h⟩

end Sys2Proof.Machine
end

