-- ==== Sys2Proof/Laws/Run.lean ====
section
/-! SUPPORT. Runs: steps one after the other, what a command's plan does not read, and a run of ticks as its effects. -/

namespace Sys2Proof.Machine

/-- One step and then `k` more. -/
theorem run_succ (k : Nat) (s : State) :
    Sys2Proof.core.run (k + 1) s = match step s with
      | .next t => Sys2Proof.core.run k t
      | .fault f => .fault f
      | .refused r => .refused r := by
  cases hs : step s with
  | next t =>
    have h : Sys2Proof.core.step s = .next t := hs
    simp only [Host.Core.run, h]
  | fault f =>
    have h : Sys2Proof.core.step s = .fault f := hs
    simp only [Host.Core.run, h]
  | refused r =>
    have h : Sys2Proof.core.step s = .refused r := hs
    simp only [Host.Core.run, h]

theorem run_zero (s : State) : Sys2Proof.core.run 0 s = .next s := by
  simp only [Host.Core.run]

theorem run_succ_next {k : Nat} {s t : State} (h : step s = .next t) :
    Sys2Proof.core.run (k + 1) s = Sys2Proof.core.run k t := by
  rw [run_succ, h]

theorem run_one (s : State) : Sys2Proof.core.run 1 s = step s := by
  rw [run_succ]
  cases step s <;> rfl

/-- A run in two parts. -/
theorem run_add {a b : Nat} {s t : State} (h : Sys2Proof.core.run a s = .next t) :
    Sys2Proof.core.run (a + b) s = Sys2Proof.core.run b t := by
  induction a generalizing s with
  | zero => rw [run_zero] at h; cases h; rw [Nat.zero_add]
  | succ a ih =>
    rw [Nat.add_right_comm, run_succ]
    rw [run_succ] at h
    cases hs : step s with
    | next u => rw [hs] at h; exact ih h
    | fault f => rw [hs] at h; cases h
    | refused r => rw [hs] at h; cases h

/-- A plan does not depend on the engine, the ports, the traces or the inputs. -/
theorem plan_reshell (i : Instr) (s : State) (e : Engine) (rp : Option Response) (w : List WireEvent) (r : List Response)
    (ins : List Input) : plan i (s.reshell e rp w r ins) = plan i s := by
  cases i <;> rfl

theorem planWord_reshell (wd : Word) (s : State) (e : Engine) (rp : Option Response) (w : List WireEvent)
    (r : List Response) (ins : List Input) : planWord wd (s.reshell e rp w r ins) = planWord wd s := by
  unfold planWord
  split
  · exact plan_reshell _ _ _ _ _ _ _
  · rfl

/-- A flight that did `k` effects more and has `ops` to come, the inputs `rest` left. -/
def State.advanced (u : State) (f : Flight) (k : Nat) (ops : List MicroOp) (rest : List Input) : State :=
  { u with engine := .running { f with done := f.done + k, pending := ops }, inputs := rest }

/-- A run of ticks is the effects it does, when the peripheral is ready at each or none of them waits for it. -/
theorem run_ticks {a b : List MicroOp} {s u : State} {f : Flight} {readies : List Bool} {rest : List Input}
    (hw : s.cfg.wf = true) (he : s.engine = .running f) (hp : f.pending = a ++ b) (hu : runOps a s = .ok u)
    (hi : s.inputs = readies.map .tick ++ rest) (hlen : readies.length = a.length)
    (hg : (∀ x ∈ readies, x = true) ∨ ∀ op ∈ a, op.waits = false) :
    Sys2Proof.core.run a.length s = .next (u.advanced f a.length b rest) := by
  induction a generalizing s u f readies with
  | nil =>
    simp only [List.length_nil, List.length_eq_zero_iff] at hlen
    subst hlen
    cases hu
    simp only [List.map_nil, List.nil_append] at hi hp
    rw [List.length_nil, run_zero]
    congr 1
    unfold State.advanced
    rw [← hi, ← hp]
    show s = { s with engine := .running f }
    rw [← he]
  | cons op a ih =>
    cases readies with
    | nil => simp at hlen
    | cons x readies =>
      simp only [runOps] at hu
      cases hop : applyOp op s with
      | error e => rw [hop] at hu; simp at hu
      | ok v =>
        rw [hop] at hu
        have hop' := applyOp_reshell hop s.engine s.rspPort s.wire s.rsp (readies.map .tick ++ rest)
        have hwait : (op.waits && !x) = false := by
          rcases hg with hg | hg
          · rw [hg x (by simp)]; simp
          · rw [hg op (by simp)]; simp
        have htick : react (.tick x) (s.reshell s.engine s.rspPort s.wire s.rsp (readies.map .tick ++ rest)) = .next _ :=
          tick_effect (b := x) he hp hwait hop'
        have hin : step s = react (.tick x) (s.reshell s.engine s.rspPort s.wire s.rsp (readies.map .tick ++ rest)) :=
          step_input hw hi
        have hstep := hin.trans htick
        rw [List.length_cons, run_succ_next hstep]
        have hvf := applyOp_frame hop
        have hu' := runOps_reshell hu (.running { f with done := f.done + 1, pending := a ++ b }) s.rspPort
          (s.wire ++ op.events.map .out) s.rsp (readies.map .tick ++ rest)
        refine (ih (f := { f with done := f.done + 1, pending := a ++ b }) ?_ rfl rfl hu' rfl (by simpa using hlen) ?_).trans ?_
        · show v.cfg.wf = true
          rw [hvf]; exact hw
        · rcases hg with hg | hg
          · exact .inl fun y hy => hg y (by simp [hy])
          · exact .inr fun y hy => hg y (by simp [hy])
        · clear hstep hin htick hop'
          congr 1
          have huf := runOps_frame hu
          unfold State.advanced
          rw [huf, hvf]
          have hdone : f.done + 1 + a.length = f.done + (op :: a).length := by
            rw [List.length_cons]; omega
          rw [hdone]
          simp [State.reshell]
          rfl

end Sys2Proof.Machine
end

