-- ==== Sys2Proof/Laws/Transport.lean ====
section
/-! SUPPORT. What activation, teardown and the delivery of bytes do to the outputs, said once. -/

namespace Sys2Proof.Machine

theorem Transport.wf_hw {nSpi nPins : Nat} {k : Byte} : (Transport.hw k).wf nSpi nPins = true ↔ k.toNat < nSpi := by
  simp [Transport.wf]

theorem Transport.wf_sw {nSpi nPins : Nat} {d c : Byte} :
    (Transport.sw d c).wf nSpi nPins = true ↔ d.toNat < nPins ∧ c.toNat < nPins ∧ d ≠ c := by
  simp [Transport.wf, and_assoc]

theorem perLegal_iff {p : Config.Params} {k : Byte} : perLegal p k = true ↔ (Transport.hw k).wf p.pSpi p.pPins = true := by
  simp [perLegal, Transport.wf]

theorem pinsLegal_iff {p : Config.Params} {d c : Byte} :
    pinsLegal p d c = true ↔ (Transport.sw d c).wf p.pSpi p.pPins = true := by
  simp [pinsLegal, Transport.wf]

/-- An output bit after one output was written. -/
theorem getD_set (l : List Bool) (i j : Nat) (v : Bool) :
    (l.set i v).getD j false = if i = j ∧ i < l.length then v else l.getD j false := by
  simp only [List.getD_eq_getElem?_getD, List.getElem?_set]
  by_cases h : i = j
  · subst h
    by_cases h2 : i < l.length <;> simp [h2]
  · simp [h]

/-- Writing an output with the value it has changes nothing. -/
theorem set_same (l : List Bool) (i : Nat) (v : Bool) (h : l.getD i false = v) : l.set i v = l := by
  by_cases hi : i < l.length
  · apply List.ext_getElem?
    intro j
    rw [List.getElem?_set]
    split
    · rename_i hij
      subst hij
      simp only [List.getD_eq_getElem?_getD, List.getElem?_eq_getElem hi, Option.getD_some] at h
      simp [hi, h]
    · rfl
  · exact List.set_eq_of_length_le (not_lt.mp hi)

/-- The state after `Activate(t)` (R88). -/
def State.activated (s : State) (t : Transport) : State :=
  match t with
  | .hw k => { s with spiOpen := s.spiOpen.set k.toNat true, wire := s.wire ++ [.out (.spiOpen k)] }
  | .sw d c =>
    { s with
      padOe := (s.padOe.set d.toNat true).set c.toNat true
      padOut := (s.padOut.set d.toNat false).set c.toNat false
      wire := s.wire ++ [.out (.padMode d .output), .out (.padMode c .output), .out (.padWrite d false),
        .out (.padWrite c false)] }

/-- The state after `Teardown(t)` (R89). -/
def State.tornDown (s : State) (t : Transport) : State :=
  match t with
  | .hw k => { s with spiOpen := s.spiOpen.set k.toNat false, wire := s.wire ++ [.out (.spiClose k)] }
  | .sw d c =>
    { s with
      padOe := (s.padOe.set d.toNat false).set c.toNat false
      wire := s.wire ++ [.out (.padMode d .input), .out (.padMode c .input)] }

/-- A legal transport is activated without a fault. -/
theorem runOps_activate {t : Transport} {s : State} (h : t.wf s.cfg.pSpi s.cfg.pPins = true) :
    runOps (activate t) s = .ok (s.activated t) := by
  cases t with
  | hw k => simp [activate, runOps, applyOp, drive, Transport.wf_hw.mp h, State.trace, State.activated]
  | sw d c =>
    obtain ⟨h1, h2, -⟩ := Transport.wf_sw.mp h
    simp [activate, runOps, applyOp, drive, h1, h2, State.trace, State.activated]

/-- A legal transport is torn down without a fault. -/
theorem runOps_teardown {t : Transport} {s : State} (h : t.wf s.cfg.pSpi s.cfg.pPins = true) :
    runOps (teardown t) s = .ok (s.tornDown t) := by
  cases t with
  | hw k => simp [teardown, runOps, applyOp, drive, Transport.wf_hw.mp h, State.trace, State.tornDown]
  | sw d c =>
    obtain ⟨h1, h2, -⟩ := Transport.wf_sw.mp h
    have hm : (PadMode.input == PadMode.output) = false := rfl
    simp [teardown, runOps, applyOp, drive, h1, h2, State.trace, State.tornDown, hm]

theorem activated_frame (s : State) (t : Transport) :
    s.activated t = { s with spiOpen := (s.activated t).spiOpen, padOe := (s.activated t).padOe,
                             padOut := (s.activated t).padOut, wire := (s.activated t).wire } := by
  cases t <;> rfl

theorem tornDown_frame (s : State) (t : Transport) :
    s.tornDown t = { s with spiOpen := (s.tornDown t).spiOpen, padOe := (s.tornDown t).padOe, wire := (s.tornDown t).wire } := by
  cases t <;> rfl

/-- Two writes of one value, seen at one place. -/
theorem getD_set_set (l : List Bool) (i j p : Nat) (v : Bool) (hi : i < l.length) (hj : j < l.length) :
    ((l.set i v).set j v).getD p false = if p = i ∨ p = j then v else l.getD p false := by
  rw [getD_set, getD_set, List.length_set]
  by_cases h1 : j = p
  · subst h1; simp [hj]
  · by_cases h2 : i = p
    · subst h2; simp [h1, hi]
    · simp [h1, h2, Ne.symm h1, Ne.symm h2]

/-- The outputs after an activation: the transport's own are on, its pads low, the others as before. -/
theorem activated_outputs {s : State} {t : Transport} (h : t.wf s.cfg.pSpi s.cfg.pPins = true)
    (hs : s.spiOpen.length = s.cfg.pSpi) (he : s.padOe.length = s.cfg.pPins) (ho : s.padOut.length = s.cfg.pPins) :
    (∀ k, (s.activated t).spiOpenAt k = (usesSpi t k || s.spiOpenAt k)) ∧
    (∀ p, (s.activated t).padOeAt p = (usesPad t p || s.padOeAt p)) ∧
    (∀ p, (s.activated t).padOutAt p = (!usesPad t p && s.padOutAt p)) := by
  cases t with
  | hw k =>
    have hk := Transport.wf_hw.mp h
    refine ⟨fun j => ?_, fun _ => by simp [usesPad, State.activated, State.padOeAt],
      fun _ => by simp [usesPad, State.activated, State.padOutAt]⟩
    show (s.spiOpen.set k.toNat true).getD j false = _
    rw [getD_set, hs]
    by_cases hj : k.toNat = j
    · simp [usesSpi, hj, hj ▸ hk]
    · simp [usesSpi, hj, Ne.symm hj, State.spiOpenAt]
  | sw d c =>
    obtain ⟨h1, h2, -⟩ := Transport.wf_sw.mp h
    refine ⟨fun _ => by simp [usesSpi, State.activated, State.spiOpenAt], fun p => ?_, fun p => ?_⟩
    · show ((s.padOe.set d.toNat true).set c.toNat true).getD p false = _
      rw [getD_set_set _ _ _ _ _ (by omega) (by omega)]
      by_cases hp : p = d.toNat ∨ p = c.toNat
      · rcases hp with hp | hp <;> simp [usesPad, hp]
      · simp only [if_neg hp, State.padOeAt, usesPad]
        rw [not_or] at hp
        simp [hp.1, hp.2]
    · show ((s.padOut.set d.toNat false).set c.toNat false).getD p false = _
      rw [getD_set_set _ _ _ _ _ (by omega) (by omega)]
      by_cases hp : p = d.toNat ∨ p = c.toNat
      · rcases hp with hp | hp <;> simp [usesPad, hp]
      · simp only [if_neg hp, State.padOutAt, usesPad]
        rw [not_or] at hp
        simp [hp.1, hp.2]

/-- The outputs after a teardown: the transport's own are off, the others as before, and no level changes. -/
theorem tornDown_outputs {s : State} {t : Transport} (h : t.wf s.cfg.pSpi s.cfg.pPins = true)
    (hs : s.spiOpen.length = s.cfg.pSpi) (he : s.padOe.length = s.cfg.pPins) :
    (∀ k, (s.tornDown t).spiOpenAt k = (!usesSpi t k && s.spiOpenAt k)) ∧
    (∀ p, (s.tornDown t).padOeAt p = (!usesPad t p && s.padOeAt p)) := by
  cases t with
  | hw k =>
    have hk := Transport.wf_hw.mp h
    refine ⟨fun j => ?_, fun _ => by simp [usesPad, State.tornDown, State.padOeAt]⟩
    show (s.spiOpen.set k.toNat false).getD j false = _
    rw [getD_set, hs]
    by_cases hj : k.toNat = j
    · simp [usesSpi, hj, hj ▸ hk]
    · simp [usesSpi, hj, Ne.symm hj, State.spiOpenAt]
  | sw d c =>
    obtain ⟨h1, h2, -⟩ := Transport.wf_sw.mp h
    refine ⟨fun _ => by simp [usesSpi, State.tornDown, State.spiOpenAt], fun p => ?_⟩
    show ((s.padOe.set d.toNat false).set c.toNat false).getD p false = _
    rw [getD_set_set _ _ _ _ _ (by omega) (by omega)]
    by_cases hp : p = d.toNat ∨ p = c.toNat
    · rcases hp with hp | hp <;> simp [usesPad, hp]
    · simp only [if_neg hp, State.padOeAt, usesPad]
      rw [not_or] at hp
      simp [hp.1, hp.2]

/-- Outputs written on two pads that exist: the levels change, and each write is traced. -/
theorem runOps_bits {d c : Byte} {s : State} (hd : d.toNat < s.cfg.pPins) (hc : c.toNat < s.cfg.pPins) (v : Bool) :
    runOps ((bitWrites d c v).map MicroOp.drive) s =
      .ok { s with padOut := ((s.padOut.set d.toNat v).set c.toNat true).set c.toNat false,
                   wire := s.wire ++ (bitWrites d c v).map .out } := by
  simp [bitWrites, runOps, applyOp, drive, hd, hc, State.trace]

end Sys2Proof.Machine
end

