-- ==== Sys2Proof/Tests/Slice0.lean ====
section
/-! SUPPORT. The model's own tests. Expected values come from spec/95_test_vectors.md, from the examples of the rules and from the
encodings of spec/30_encoding.md. The last part holds, for every statement with hypotheses, a state and operands that meet them. -/

namespace Sys2Proof.Tests

open Sys2Proof Sys2Proof.Machine Sys2Proof.Claims

/-! ### Small states and what a step shows -/

/-- Bytes from an address on, as cells. -/
def cells : Nat → List Byte → Memory
  | _, [] => []
  | a, x :: xs => if x = 0 then cells (a + 1) xs else (a, x) :: cells (a + 1) xs

/-- A block of the test vectors' elaboration with order `o`, `n` pixels and these buffer bytes. -/
def block (o : ChannelOrder) (n : Half) (bytes : List Byte) : State :=
  { State.reset with cfg := { Config.vectorParams with order := o }, n := n, buf := cells 0 bytes }

/-- The block with peripheral `k` active. -/
def onHw (k : Byte) (s : State) : State :=
  { s with tx := .hw k, active := true, spiOpen := s.spiOpen.set k.toNat true }

/-- The block with two pads active. -/
def onSw (d c : Byte) (s : State) : State :=
  { s with tx := .sw d c, active := true, padOe := (s.padOe.set d.toNat true).set c.toNat true }

/-- One step on a presented word. -/
def give (w : Word) (s : State) : Host.Outcome State Fault Refusal := step { s with inputs := [.command w] }

def nextState : Host.Outcome State Fault Refusal → Option State
  | .next t => some t
  | .fault _ => none
  | .refused _ => none

/-- The response a step leaves on the port. -/
def response (o : Host.Outcome State Fault Refusal) : Option (BitVec 2 × Colour) :=
  (nextState o).map (fun t => (t.rspStatus, t.rspData))

/-- The first `k` bytes of the buffer after a step. -/
def bytes (k : Nat) (o : Host.Outcome State Fault Refusal) : List Byte :=
  match nextState o with
  | some t => (List.range k).map t.byte
  | none => []

/-- The wire events a step on `s` added. -/
def events (s : State) (o : Host.Outcome State Fault Refusal) : List OutEvent :=
  match nextState o with
  | some t => outEvents (t.wire.drop s.wire.length)
  | none => []

/-- TXSEL and ACTIVE after a step. -/
def selected (o : Host.Outcome State Fault Refusal) : Option (Transport × Bool) :=
  (nextState o).map (fun t => (t.tx, t.active))

/-! ### What is ill formed is refused (R9, R19, R58) -/

theorem test_vector_params_wf : Config.vectorParams.wf = true := by decide

theorem test_params_reject_n_max : ({ Config.vectorParams with nMax := 65536 } : Config.Params).wf = false := by decide

theorem test_params_reject_n_init :
    ({ Config.vectorParams with nInit := 0 } : Config.Params).wf = false ∧
    ({ Config.vectorParams with nInit := 65536 } : Config.Params).wf = false := by decide

theorem test_params_reject_p_spi : ({ Config.vectorParams with pSpi := 257 } : Config.Params).wf = false := by decide

theorem test_params_reject_p_pins :
    ({ Config.vectorParams with pPins := 1 } : Config.Params).wf = false ∧
    ({ Config.vectorParams with pPins := 257 } : Config.Params).wf = false := by decide

theorem test_params_reject_rates :
    ({ Config.vectorParams with spiClkHz := 0 } : Config.Params).wf = false ∧
    ({ Config.vectorParams with swPhaseCycles := 0 } : Config.Params).wf = false := by decide

theorem test_params_reject_tx_init :
    ({ Config.vectorParams with txInit := .hw 2 } : Config.Params).wf = false ∧
    ({ Config.vectorParams with txInit := .sw 3 8 } : Config.Params).wf = false := by decide

theorem test_transport_wf_rejects :
    (Transport.hw 2).wf 2 8 = false ∧ (Transport.sw 8 3).wf 2 8 = false ∧ (Transport.sw 3 8).wf 2 8 = false ∧
    (Transport.sw 3 3).wf 2 8 = false ∧ (Transport.hw 1).wf 2 8 = true ∧ (Transport.sw 7 0).wf 2 8 = true := by decide

theorem test_asm_wf_rejects :
    (AsmLine.mk .color [1, 2]).wf = false ∧ (AsmLine.mk .clear [1]).wf = false ∧ (AsmLine.mk .setbri [256]).wf = false ∧
    (AsmLine.mk .fill []).wf = false ∧ (AsmLine.mk .fill [4294967296]).wf = false ∧
    (AsmLine.mk .fill [4294967295]).wf = true := by decide

theorem test_memory_wf_rejects :
    Memory.wf [(1, 5), (0, 5)] = false ∧ Memory.wf [(1, 5), (1, 6)] = false ∧ Memory.wf [(1, 0)] = false ∧
    Memory.wf State.reset.buf = true := by decide

theorem test_bad_elaboration_refused :
    step { State.reset with cfg := { Config.vectorParams with pPins := 1 } } = .refused .badElaboration := by rfl

/-! ### Decoding: a word for every command, its bits from R52 and R54, bit 63 first -/

theorem test_decode_colour :
    decode 0b0000000100000000000000000000000000000000000100100011010001010110 = .ok (.color 0x12 0x34 0x56) ∧
    decode 0b0000001000000000000000000000000010000000000000001000000001111111 = .ok (.colorhsv 0x8000 0x80 0x7F) ∧
    decode 0b0000001100000000000000000000000010000001111111111000000001000010 = .ok (.gamma32 0x81FF8042) := by decide

theorem test_decode_pixel :
    decode 0b0001000000000000000000000000000000000000000000001000000001000001 = .ok (.resize 0x8041) ∧
    decode 0b0001000110000000000001010000000000000000100100100011010001010111 = .ok (.setpix 0x8005 0x92 0x34 0x57) ∧
    decode 0b0001001001000000000000010000000010101011000100100011010001010111 = .ok (.setpixc 0x4001 0xAB123457) ∧
    decode 0b0001001111111111111111100000000000000000000000000000000000000000 = .ok (.getpix 0xFFFE) ∧
    decode 0b0001010010000000000010000100000000000101100000010000001000000011 = .ok (.fill 0x810203 0x8008 0x4005) ∧
    decode 0b0001010100000000000000000000000000000000000000000000000000000000 = .ok (.clear) ∧
    decode 0b0001011000000000000000000000000000000000000000000000000000000000 = .ok (.numpix) := by decide

theorem test_decode_brightness :
    decode 0b0010000000000000000000000000000000000000000000000000000010000001 = .ok (.setbri 0x81) ∧
    decode 0b0010000100000000000000000000000000000000000000000000000000000000 = .ok (.getbri) := by decide

theorem test_decode_transport :
    decode 0b0011000000000000000000000000000000000000000000000000000000000000 = .ok (.beginTx) ∧
    decode 0b0011000100000000000000000000000000000000000000000000000010000001 = .ok (.settxhw 0x81) ∧
    decode 0b0011001000000000000000000000000000000000000000000000001110000100 = .ok (.settxsw 3 0x84) ∧
    decode 0b0011001100000000000000000000000000000000000000000000000000000000 = .ok (.showFrame) := by decide

/-- Words of 95_test_vectors.md 2.1 to 2.3, 2.6 and 2.7 that are no command (R56). -/
theorem test_decode_rejects_reserved :
    [0x0100000001000000, 0x0200000100000000, 0x0300000100000000, 0x1000000000010000, 0x1100000001000000, 0x12000001AB000000,
     0x1300050000000001, 0x1500000000000100, 0x1600000000000001, 0x2000000000000100, 0x2100000000000001, 0x3000000000000001,
     0x3102000000000000, 0x3200000000010000, 0x3300000000000001].all
      (fun w : Word => decide (decode w = .error (.reservedBitSet (fOpc w)))) = true := by decide

theorem test_decode_rejects_opcodes :
    [0x00, 0x04, 0x0F, 0x17, 0x1F, 0x22, 0x2F, 0x34, 0xFF].all
      (fun o : Byte => decide (decode (o ++ 0#56) = .error (.unassignedOpcode o))) = true := by decide

/-- The assembler's examples (R60, 95_test_vectors.md 2.2 and 2.3). -/
theorem test_assembler_text :
    assembleText "SETPIX 5, 0x12, 0x34, 0x56".toList = some 0x1100050000123456 ∧
    assembleText "FILL 0xAB010203, 0, 1 ; the high byte is dropped".toList = some 0x1400000001010203 ∧
    assembleText "COLORHSV 32768".toList = some 0x020000008000FFFF ∧
    assembleText "RENDER".toList = some 0x3300000000000000 ∧
    assembleText "SETBRI 0x100".toList = none := by decide

/-! ### The commands -/

/-- 95_test_vectors.md 2.1, COLOR. -/
theorem test_color : response (give 0x0100000000123456 State.reset) = some (0, 0x00123456) := by decide +kernel

/-- 95_test_vectors.md 2.1, the pure colours at each segment's edge. -/
theorem test_colorhsv_hues :
    [(0, 0x00FF0000), (22, 0x00FF0100), (10922, 0x00FFFF00), (16384, 0x007FFF00), (32768, 0x0000FFFF), (43690, 0x000000FF),
     (49152, 0x008000FF), (60000, 0x00FF0081), (65514, 0x00FF0001), (65535, 0x00FF0000)].all
      (fun v : Half × Colour => decide (hsvColour v.1 255 255 = v.2)) = true := by decide +kernel

/-- 95_test_vectors.md 2.1, saturation and value. -/
theorem test_colorhsv_sat_val :
    response (give 0x020000002AABC864 State.reset) = some (0, 0x00646415) ∧
    response (give 0x02000000138801FF State.reset) = some (0, 0x00FFFEFE) ∧
    response (give 0x020000001388FEFE State.reset) = some (0, 0x00FE7400) := by decide +kernel

/-- 95_test_vectors.md 2.1, GAMMA32. -/
theorem test_gamma32 :
    response (give 0x0300000000FF8040 State.reset) = some (0, 0x00FF2A07) ∧
    response (give 0x0300000040C0E010 State.reset) = some (0, 0x077AB600) := by decide +kernel

/-- 95_test_vectors.md 2.2: RESIZE zeroes in both branches, and fails above N_MAX = 64. -/
theorem test_resize :
    (nextState (give 0x100000000000000A (block .rgb 2 [1, 2, 3, 4, 5, 6]))).map (fun t => (t.n, t.buf)) = some (10, []) ∧
    (nextState (give 0x1000000000000040 (block .rgb 1 [1, 2, 3]))).map (fun t => (t.n, t.buf)) = some (64, []) ∧
    (nextState (give 0x1000000000000041 (block .rgb 1 [1, 2, 3]))).map (fun t => (t.n, t.buf)) = some (0, []) := by
  decide +kernel

/-- 95_test_vectors.md 2.2: SETPIX 0, 0x11, 0x22, 0x33 under each channel order. -/
theorem test_setpix_orders :
    [(ChannelOrder.rgb, [0x11, 0x22, 0x33]), (.rbg, [0x11, 0x33, 0x22]), (.grb, [0x22, 0x11, 0x33]),
     (.gbr, [0x22, 0x33, 0x11]), (.brg, [0x33, 0x11, 0x22]), (.bgr, [0x33, 0x22, 0x11])].all
      (fun v : ChannelOrder × List Byte => decide (bytes 3 (give 0x1100000000112233 (block v.1 1 [])) = v.2)) = true := by
  decide +kernel

/-- 95_test_vectors.md 2.2: an index that is not below N is ignored. -/
theorem test_setpix_outside :
    bytes 27 (give 0x1100080000010203 (block .rgb 8 [])) = List.replicate 27 0 ∧
    response (give 0x1100080000010203 (block .rgb 8 [])) = some (0, 0) := by decide +kernel

/-- 95_test_vectors.md 2.2: SETPIXC ignores the high byte of its colour. -/
theorem test_setpixc : bytes 6 (give 0x12000100AB123456 (block .bgr 8 [])) = [0, 0, 0, 0x56, 0x34, 0x12] := by
  decide +kernel

/-- 95_test_vectors.md 2.2: GETPIX inside and outside the strip, the brightness not applied. -/
theorem test_getpix :
    response (give 0x1300010000000000 (block .bgr 8 [0, 0, 0, 0x56, 0x34, 0x12])) = some (0, 0x00123456) ∧
    response (give 0x1300000000000000 { block .rgb 8 [9, 9, 9] with bri := 1 }) = some (0, 0x00090909) ∧
    response (give 0x13FFFF0000000000 (block .rgb 8 [9, 9, 9])) = some (0, 0) := by decide +kernel

/-- 95_test_vectors.md 2.2: FILL clipped at the end, and without a 16-bit wrap. -/
theorem test_fill_clips :
    bytes 12 (give 0x1400020005010203 (block .rgb 3 [])) = [0, 0, 0, 0, 0, 0, 1, 2, 3, 0, 0, 0] ∧
    bytes 6 (give 0x140001FFFF010203 (block .grb 2 [])) = [0, 0, 0, 2, 1, 3] := by decide +kernel

theorem test_fill_ranges :
    bytes 9 (give 0x1400010001010203 (block .rgb 3 [])) = [0, 0, 0, 1, 2, 3, 0, 0, 0] ∧
    bytes 9 (give 0x1400010000010203 (block .rgb 3 [])) = [0, 0, 0, 1, 2, 3, 1, 2, 3] ∧
    bytes 9 (give 0x1400030001010203 (block .rgb 3 [])) = List.replicate 9 0 := by decide +kernel

/-- 95_test_vectors.md 2.2: CLEAR. -/
theorem test_clear :
    (nextState (give 0x1500000000000000 (block .rgb 2 [1, 2, 3, 4, 5, 6]))).map (fun t => (t.n, t.buf)) = some (2, []) := by
  decide +kernel

/-- 95_test_vectors.md 2.2: NUMPIX. -/
theorem test_numpix : response (give 0x1600000000000000 (block .rgb 8 [])) = some (0, 8) := by decide +kernel

/-- 95_test_vectors.md 2.3: SETBRI. -/
theorem test_setbri : (nextState (give 0x20000000000000FF State.reset)).map (fun t => t.bri) = some 255 := by decide +kernel

/-- 95_test_vectors.md 2.3: GETBRI. -/
theorem test_getbri : response (give 0x2100000000000000 { State.reset with bri := 255 }) = some (0, 0xFF) := by
  decide +kernel

/-- 95_test_vectors.md 2.3: the corners of the scale table. -/
theorem test_scale :
    [(127, 64, 31), (127, 255, 126), (128, 127, 63), (254, 254, 252), (255, 2, 1), (255, 254, 253), (255, 255, 254),
     (255, 0, 255), (255, 1, 0)].all (fun v : Byte × Byte × Byte => decide (scale v.1 v.2.1 = v.2.2)) = true := by decide

/-- 95_test_vectors.md 2.6: BEGIN on a peripheral. -/
theorem test_begin_hw :
    events State.reset (give 0x3000000000000000 State.reset) = [.spiOpen 0] ∧
    selected (give 0x3000000000000000 State.reset) = some (.hw 0, true) := by decide +kernel

/-- 95_test_vectors.md 2.6: BEGIN on pads. -/
theorem test_begin_sw :
    events State.reset (give 0x3000000000000000 { State.reset with tx := .sw 3 4 }) =
      [.padMode 3 .output, .padMode 4 .output, .padWrite 3 false, .padWrite 4 false] := by decide +kernel

/-- 95_test_vectors.md 2.6: SETTXHW with nothing to tear down, and to the peripheral already active. -/
theorem test_settxhw :
    events State.reset (give 0x3100000000000001 State.reset) = [.spiOpen 1] ∧
    selected (give 0x3100000000000001 State.reset) = some (.hw 1, true) ∧
    events State.reset (give 0x3100000000000000 (onHw 0 State.reset)) = [.spiClose 0, .spiOpen 0] := by decide +kernel

/-- 95_test_vectors.md 2.6: SETTXHW from pads, and refused. -/
theorem test_settxhw_from_pads :
    events State.reset (give 0x3100000000000000 (onSw 3 4 State.reset)) =
      [.padMode 3 .input, .padMode 4 .input, .spiOpen 0] ∧
    response (give 0x3100000000000002 State.reset) = some (1, 0) ∧
    events State.reset (give 0x3100000000000002 (onSw 3 4 State.reset)) = [] := by decide +kernel

/-- 95_test_vectors.md 2.6: SETTXSW with a pad of the old selection. -/
theorem test_settxsw :
    events State.reset (give 0x3200000000000405 (onSw 3 4 State.reset)) =
      [.padMode 3 .input, .padMode 4 .input, .padMode 4 .output, .padMode 5 .output, .padWrite 4 false, .padWrite 5 false] ∧
    selected (give 0x3200000000000304 (onHw 0 State.reset)) = some (.sw 3 4, true) := by decide +kernel

/-- 95_test_vectors.md 2.6: SETTXSW refused. -/
theorem test_settxsw_refused :
    response (give 0x3200000000000308 State.reset) = some (1, 0) ∧
    response (give 0x3200000000000803 State.reset) = some (1, 0) ∧
    response (give 0x3200000000000303 State.reset) = some (1, 0) ∧
    selected (give 0x3200000000000303 State.reset) = some (.hw 0, false) := by decide +kernel

/-- 95_test_vectors.md 2.4: the frame of two pixels, and of one at brightness 128. -/
theorem test_show_hw :
    events State.reset (give 0x3300000000000000 (onHw 0 (block .rgb 2 [1, 2, 3, 4, 5, 6]))) =
      [0, 0, 0, 0, 0xFF, 1, 2, 3, 0xFF, 4, 5, 6, 0xFF].map (OutEvent.spiByte 0) ∧
    events State.reset (give 0x3300000000000000 { onHw 0 (block .rgb 1 [0xFF, 0x80, 1]) with bri := 128 }) =
      [0, 0, 0, 0, 0xFF, 0x7F, 0x40, 0, 0xFF].map (OutEvent.spiByte 0) := by decide +kernel

/-- 95_test_vectors.md 2.5 and its program P2: 216 pad writes, of which those of the sixth byte, 0xA5, are listed; nothing is
sent while ACTIVE = 0. -/
theorem test_show_sw :
    (events State.reset (give 0x3300000000000000 (onSw 3 4 (block .rgb 1 [0xA5, 0, 0xFF])))).length = 216 ∧
    ((events State.reset (give 0x3300000000000000 (onSw 3 4 (block .rgb 1 [0xA5, 0, 0xFF])))).drop 120).take 24 =
      [true, false, true, false, false, true, false, true].flatMap
        (fun v => [.padWrite 3 v, .padWrite 4 true, .padWrite 4 false]) ∧
    events State.reset (give 0x3300000000000000 (block .rgb 1 [0xA5, 0, 0xFF])) = [] := by decide +kernel

/-- 95_test_vectors.md 2.4: the end-marker lengths (R94). -/
theorem test_end_marker :
    [(1, 1), (2, 1), (15, 1), (16, 1), (17, 2), (32, 2), (33, 3), (144, 9), (255, 16), (256, 16), (1000, 63), (65535, 4096)].all
      (fun v : Nat × Nat => endMarkerLength v.1 == v.2) = true := by decide

/-! ### Reset, the cycle level and the host's two functions -/

/-- R119 on a block with every register changed. -/
theorem test_reset :
    (nextState (step { onHw 1 (block .bgr 2 [1, 2, 3]) with bri := 7, inputs := [.reset] })).map
      (fun t => (t.n, t.bri, t.tx, t.active)) = some (8, 0, .hw 0, false) ∧
    (nextState (step { onHw 1 (block .bgr 2 [1, 2, 3]) with bri := 7, inputs := [.reset] })).map
      (fun t => (t.spiOpen, t.buf, t.busy)) = some ([false, false], [], false) := by decide +kernel

/-- R100, R12: the second BEGIN on pads 3 and 4 changes nothing, and after a Reset it drives both pads again. -/
theorem test_waveform :
    waveform State.reset.pads ((activationEvents (.sw 3 4) ++ activationEvents (.sw 3 4)).map .out) =
      [.out (.padMode 3 .output), .out (.padMode 4 .output)] ∧
    waveform State.reset.pads
      ((activationEvents (.sw 3 4)).map .out ++ [.reset] ++ (activationEvents (.sw 3 4)).map .out) =
      [.out (.padMode 3 .output), .out (.padMode 4 .output), .reset,
        .out (.padMode 3 .output), .out (.padMode 4 .output)] ∧
    waveform State.reset.pads [.reset] = [] := by decide +kernel

/-- 95_test_vectors.md P5: three bytes accepted, then `rst`; here its last step. -/
theorem test_reset_aborts_show :
    (nextState (step { onHw 0 (block .bgr 2 [1]) with
      engine := .running ⟨true, 3, [.drive (.spiByte 0 0)], some ⟨.ok, 0⟩⟩, inputs := [.rst] })).map
      (fun t => (t.wire, t.rsp, t.busy, t.rspValid)) = some ([.reset, .reset], [], true, 0) := by decide +kernel

/-- A byte is handed over only when the peripheral is ready (R98, R126). -/
theorem test_tick_waits :
    events State.reset (step { onHw 0 State.reset with
      engine := .running ⟨true, 0, [.drive (.spiByte 0 0)], some ⟨.ok, 0⟩⟩, inputs := [.tick false] }) = [] ∧
    events State.reset (step { onHw 0 State.reset with
      engine := .running ⟨true, 0, [.drive (.spiByte 0 0)], some ⟨.ok, 0⟩⟩, inputs := [.tick true] }) =
      [.spiByte 0 0] := by decide +kernel

/-- The host's two functions on the match words of the opcode table. -/
theorem test_host_functions :
    decodeTableWord 64 0x3200000000000304 = some (.settxsw 3 4) ∧ decodeTableWord 64 0x3200000000010304 = none ∧
    response (step (State.reset.withFetchWord 64 0x1600000000000000)) = some (0, 8) := by decide +kernel

/-- A write where the spec has no byte, pad or peripheral stops (R24, R25). -/
theorem test_nothing_there :
    applyOp (.memWrite 24 1) State.reset = .error (.bufferAddress 24) ∧
    applyOp (.drive (.spiOpen 2)) State.reset = .error (.noSuchPeripheral 2) ∧
    applyOp (.drive (.padWrite 8 true)) State.reset = .error (.noSuchPad 8) := by
  refine ⟨?_, ?_, ?_⟩ <;> rfl

/-! ### Witnesses: states and operands that meet the hypotheses of the statements -/

/-- Two pixels, brightness 128, peripheral 0 active (program P1 before its SHOW). -/
def hwBlock : State := { onHw 0 (block .bgr 2 [0x01, 0x80, 0xFF, 0x30, 0x20, 0x10]) with bri := 128 }

/-- One pixel, pads 3 and 4 active (program P2 before its SHOW). -/
def swBlock : State := onSw 3 4 (block .rgb 1 [0xA5, 0, 0xFF])

/-- A SHOW on peripheral 0 that has one byte to go, of a block with these inputs. -/
def showing (inputs : List Input) : State :=
  { hwBlock with engine := .running ⟨true, 12, [.drive (.spiByte 0 0xFF)], some ⟨.ok, 0⟩⟩, inputs := inputs }

/-- R27: `cmd_ready` is 0 while `rst` is 1, whatever BUSY is, and with `rst` = 0 it is not BUSY. -/
theorem test_cmd_ready :
    [State.reset, { State.reset with inputs := [.rst] }, { State.reset with inputs := [.reset] },
      { State.reset with inputs := [.command 0] }, showing [.command 0], showing [.rst]].map State.cmdReady =
      [true, false, false, true, false, false] := by decide +kernel

theorem hwBlock_sound : Sound hwBlock :=
  ⟨by decide, by decide, by decide, by decide, by decide, rfl, rfl, rfl⟩

theorem swBlock_sound : Sound swBlock :=
  ⟨by decide, by decide, by decide, by decide, by decide, rfl, rfl, rfl⟩

theorem hwBlock_inv : Inv hwBlock := by
  refine ⟨hwBlock_sound, by decide, hwBlock, rfl, ⟨fun k => ?_, fun p => ?_⟩⟩
  · rcases k with _ | _ | k <;> rfl
  · rcases p with _ | _ | _ | _ | _ | _ | _ | _ | p <;> rfl

theorem swBlock_inv : Inv swBlock := by
  refine ⟨swBlock_sound, by decide, swBlock, rfl, ⟨fun k => ?_, fun p => ?_⟩⟩
  · rcases k with _ | _ | k <;> rfl
  · rcases p with _ | _ | _ | _ | _ | _ | _ | _ | p <;> rfl

theorem reset_sound : Sound State.reset :=
  ⟨by decide, by decide, by decide, by decide, by decide, rfl, rfl, rfl⟩

theorem reset_inv : Inv State.reset := by
  refine ⟨reset_sound, by decide, State.reset, rfl, ⟨fun k => ?_, fun p => ?_⟩⟩
  · rcases k with _ | _ | k <;> rfl
  · rcases p with _ | _ | _ | _ | _ | _ | _ | _ | p <;> rfl

theorem witness_EncodeOfDecode : decode 0x1100050000123456 = .ok (.setpix 5 0x12 0x34 0x56) := by decide

theorem witness_DecodeFollowsTheOneRow :
    (opTable.any (fun row => (0x3200000000000304 : Word) &&& row.mask == row.pattern)) = true ∧
    ({ State.reset with inputs := [.command 0] } : State).cfg.wf = true ∧
    ({ State.reset with inputs := [.command 0] } : State).cmdReady = true ∧
    (opTable.all (fun row => (0 : Word) &&& row.mask != row.pattern)) = true := by decide

/-- A word with its reserved bits 0 and one with a reserved bit 1, for a format that has some; FILL has none. -/
theorem witness_CommandWords :
    (0x0100000000123456 : Word).extractLsb' 56 8 = 0x01 ∧ ((0x0100000000123456 : Word).extractLsb' 24 32 == 0) = true ∧
    (0x0100000001000000 : Word).extractLsb' 56 8 = 0x01 ∧ ((0x0100000001000000 : Word).extractLsb' 24 32 == 0) = false ∧
    (0x14FFFFFFFFFFFFFF : Word).extractLsb' 56 8 = 0x14 := by decide

theorem witness_AssemblerRefusesWideOperands :
    (AsmLine.mk .setpix [5, 256, 0, 0]).operands[1]? = some 256 ∧ Mnemonic.setpix.operandWidths[1]? = some 8 ∧
    2 ^ 8 ≤ 256 := by decide

theorem witness_StepRunsTheDecodedCommand :
    ({ State.reset with inputs := [.command 0x1600000000000000] } : State).cfg.wf = true ∧
    ({ State.reset with inputs := [.command 0x1600000000000000] } : State).cmdReady = true ∧
    decode 0x1600000000000000 = .ok .numpix := by decide

theorem witness_IllegalChangesNothing :
    ({ swBlock with inputs := [.command 0x0400000000000000] } : State).cfg.wf = true ∧
    ({ swBlock with inputs := [.command 0x0400000000000000] } : State).cmdReady = true ∧
    decode 0x0400000000000000 = .error (.unassignedOpcode 4) ∧
    swBlock.cfg.pSpi ≤ (2 : Byte).toNat ∧ swBlock.cfg.pPins ≤ (8 : Byte).toNat ∧ (3 : Byte) = 3 := by decide

theorem witness_LegalWordsExactly :
    ({ swBlock with inputs := [.command 0x1300050000000001] } : State).cfg.wf = true ∧
    ({ swBlock with inputs := [.command 0x1300050000000001] } : State).cmdReady = true ∧
    ¬ ∃ i, decode 0x1300050000000001 = .ok i := by
  refine ⟨by decide, by decide, ?_⟩
  rintro ⟨i, h⟩
  have he : decode 0x1300050000000001 = .error (.reservedBitSet 0x13) := by decide
  rw [he] at h
  cases h

/-- Words of each status: GETBRI, no command, and the operand checks at their boundaries. -/
theorem witness_EveryCommandHasOneStatus :
    State.reset.cfg.wf = true ∧ State.reset.cmdReady = true ∧
    (∃ t, step { State.reset with inputs := [.command 0x2100000000000000] } = .next t) ∧
    (∃ t, step { State.reset with inputs := [.command 0] } = .next t) ∧
    (∃ t, step { State.reset with inputs := [.command 0x3100000000000002] } = .next t) ∧
    (∃ t, step { State.reset with inputs := [.command 0x3200000000000303] } = .next t) ∧
    decode 0x3100000000000002 = .ok (.settxhw 2) ∧ State.reset.cfg.pSpi ≤ (2 : Byte).toNat :=
  ⟨by decide, rfl, ⟨_, rfl⟩, ⟨_, rfl⟩, ⟨_, rfl⟩, ⟨_, rfl⟩, by decide, by decide⟩

theorem witness_BusyAcceptsNothing :
    (showing [.command 0, .accept 0]).cfg.wf = true ∧ (showing [.command 0, .accept 0]).busy = true ∧
    (showing [.command 0, .accept 0]).inputs = .command 0 :: [.accept 0] := by decide

theorem witness_BlockWaitsForItsFirstCommand : State.reset.cfg.wf = true ∧ State.reset.inputs = [] := by decide

/-- The segments of the ramp at their edges, and the hues R65 names. -/
theorem witness_ColorhsvResult :
    (21 : Half).toNat ≤ 21 ∧ 65515 ≤ (65515 : Half).toNat ∧
    [0, 254, 255, 509, 510, 764, 765, 1019, 1020, 1274, 1275, 1529, 1530].all
      (fun h => decide ((h * 65536 / 1530 * 1530 + 32768) / 65536 = h)) = true := by decide

theorem witness_Gamma32Result : State.reset.cfg.gamma8 = Config.gammaDefault := rfl

/-- The buffer statements: a canonical buffer with bytes in it, RESIZE at N_MAX and one above. -/
theorem witness_buffer_statements :
    Memory.wf hwBlock.buf = true ∧ hwBlock.n = 2 ∧ ¬ hwBlock.cfg.nMax < (64 : Half).toNat ∧
    hwBlock.cfg.nMax < (65 : Half).toNat := by decide

/-- The last pixel inside the strip and the first outside, for SETPIX, SETPIXC, GETPIX, GETPIX after SETPIX. -/
theorem witness_pixel_indices :
    (1 : Half).toNat < hwBlock.n.toNat ∧ hwBlock.n.toNat ≤ (2 : Half).toNat ∧ hwBlock.n.toNat ≤ hwBlock.cfg.nMax := by
  decide

/-- FILL: a range inside the strip. -/
theorem witness_FillResult :
    Memory.wf hwBlock.buf = true ∧ (1 : Half).toNat ≤ 1 ∧ 1 < min ((1 : Half).toNat + (65535 : Half).toNat) hwBlock.n.toNat := by
  decide

theorem witness_writers :
    (∃ t, exec (.setbri 5) hwBlock = .next t) ∧ (∃ t, exec .beginTx hwBlock = .next t) := ⟨⟨_, rfl⟩, ⟨_, rfl⟩⟩

theorem witness_ScaleConsequences :
    (1 : Byte) ≠ 0 ∧ (1 : Byte).toNat ≤ (255 : Byte).toNat ∧ (127 : Byte).toNat ≤ (128 : Byte).toNat := by decide

theorem witness_BeginResult : Sound hwBlock ∧ Sound swBlock ∧ Sound State.reset :=
  ⟨hwBlock_sound, swBlock_sound, reset_sound⟩

/-- The last peripheral there is, and the first there is not. -/
theorem witness_SettxhwResult :
    Sound swBlock ∧ swBlock.active = true ∧ (1 : Byte).toNat < swBlock.cfg.pSpi ∧ swBlock.cfg.pSpi ≤ (2 : Byte).toNat :=
  ⟨swBlock_sound, by decide, by decide, by decide⟩

/-- The last pad there is, and the first there is not, beside a pad that is. -/
theorem witness_SettxswResult :
    Sound hwBlock ∧ hwBlock.active = true ∧ (7 : Byte).toNat < hwBlock.cfg.pPins ∧ (0 : Byte).toNat < hwBlock.cfg.pPins ∧
    (7 : Byte) ≠ 0 ∧ hwBlock.cfg.pPins ≤ (8 : Byte).toNat :=
  ⟨hwBlock_sound, by decide, by decide, by decide, by decide, by decide⟩

/-- What `OutputsSwitched` tells apart, from pads 3, 4 to peripheral 0: an output of each kind. -/
theorem witness_OutputsSwitched :
    swBlock.active = true ∧ namesSpi (.hw 0) 0 ∧ ¬ namesSpi (.hw 0) 1 ∧ namesPad swBlock.tx 3 ∧ ¬ namesPad (.hw 0) 3 ∧
    ¬ namesPad swBlock.tx 5 := by
  refine ⟨rfl, ⟨0, rfl, rfl⟩, ?_, ⟨3, 4, rfl, .inl rfl⟩, ?_, ?_⟩
  · rintro ⟨p, h, hp⟩; cases h; simp at hp
  · rintro ⟨d, c, h, -⟩; cases h
  · rintro ⟨d, c, h, hp⟩; cases h; simp at hp

theorem witness_EndMarkerLeast : 1 ≤ 16 ∧ 16 ≤ 16 ∧ 17 ≤ 17 ∧ 32 ≤ 32 ∧ 33 ≤ 16 * 3 := by decide

theorem witness_ShowResult :
    Sound swBlock ∧ swBlock.active = true ∧ 0 < swBlock.n.toNat ∧ swBlock.tx = .sw 3 4 ∧ State.reset.active = false ∧
    Sound { hwBlock with n := 0, buf := [] } :=
  ⟨swBlock_sound, rfl, by decide, rfl, rfl, by decide, by decide, by decide, by decide, by decide, rfl, rfl, rfl⟩

theorem witness_ShowStreamIsTheFrame :
    (Sound hwBlock ∧ hwBlock.active = true ∧ 0 < hwBlock.n.toNat) ∧
    (Sound swBlock ∧ swBlock.active = true ∧ 0 < swBlock.n.toNat) :=
  ⟨⟨hwBlock_sound, rfl, by decide⟩, swBlock_sound, rfl, by decide⟩

theorem witness_ShowPresentsEachByte :
    Inv hwBlock ∧ hwBlock.busy = false ∧ hwBlock.tx = .hw 0 ∧ hwBlock.active = true ∧ 0 < hwBlock.n.toNat ∧
    decode 0x3300000000000000 = .ok .showFrame :=
  ⟨hwBlock_inv, rfl, rfl, rfl, by decide, by decide⟩

theorem witness_ShowPositionOnPads :
    Inv swBlock ∧ swBlock.busy = false ∧ swBlock.tx = .sw 3 4 ∧ swBlock.active = true ∧ 0 < swBlock.n.toNat ∧
    decode 0x3300000000000000 = .ok .showFrame :=
  ⟨swBlock_inv, rfl, rfl, rfl, by decide, by decide⟩

/-- A block in the middle of a SHOW, of an elaboration with these N_MAX and N_INIT, about to be reset. -/
def aboutToReset (nMax nInit : Nat) (readies : List Bool) : State :=
  { showing [] with
    cfg := { Config.vectorParams with nMax := nMax, nInit := nInit }
    inputs := .rst :: readies.map .tick }

/-- The clear of one pixel's three bytes and the cycle that ends it; and N_INIT above N_MAX, which leaves nothing to clear. -/
theorem witness_ResetGivesTheStatedValues :
    ((aboutToReset 64 1 [false, true, false, true]).cfg.wf = true ∧
      Memory.wf (aboutToReset 64 1 [false, true, false, true]).buf = true ∧
      1 = (if 1 ≤ 64 then 1 else 0) ∧ [false, true, false, true].length = 3 * 1 + 1) ∧
    ((aboutToReset 0 1 [false]).cfg.wf = true ∧ Memory.wf (aboutToReset 0 1 [false]).buf = true ∧
      0 = (if 1 ≤ 0 then 1 else 0) ∧ [false].length = 3 * 0 + 1) := by decide

theorem witness_ResetStepIsEdgeAndClear : hwBlock.cfg.wf = true ∧ Memory.wf hwBlock.buf = true := by decide

theorem witness_ResetLeavesTheStatedValues :
    Config.vectorParams.wf = true ∧ (aboutToReset 0 65535 []).cfg.wf = true ∧ (showing []).cfg.wf = true := by decide

theorem witness_InvAtReset : Config.vectorParams.wf = true := by decide

/-- A step from each kind of moment: between commands, and in the middle of one. -/
theorem witness_StepKeepsInv :
    Inv { hwBlock with inputs := [.accept 0x3300000000000000] } ∧
    ∃ t, step { hwBlock with inputs := [.accept 0x3300000000000000] } = .next t := by
  obtain ⟨h1, h2, u, h3, h4⟩ := hwBlock_inv
  cases h3
  exact ⟨⟨h1.of_same rfl rfl rfl rfl rfl rfl rfl, h2, _, rfl, h4.of_same rfl rfl rfl rfl⟩, _, rfl⟩

theorem witness_StepAlwaysGoesOn : Inv (showing [.tick true]) := by
  obtain ⟨h1, -, u, h3, h4⟩ := hwBlock_inv
  cases h3
  exact ⟨h1.of_same rfl rfl rfl rfl rfl rfl rfl, by decide, _, rfl, h4.of_same rfl rfl rfl rfl⟩

theorem witness_TracesOnlyGrow : ∃ t, step (showing [.tick true]) = .next t := ⟨_, rfl⟩

theorem witness_ElaborationRefusedOrFixed :
    (∃ t, step (showing [.rst]) = .next t) ∧
    ¬ ({ Config.vectorParams with pPins := 1 } : Config.Params).wf = true := ⟨⟨_, rfl⟩, by decide⟩

/-- A block ready for a word, with each kind of transport. -/
theorem witness_cycle_level :
    Inv hwBlock ∧ hwBlock.busy = false ∧ Inv swBlock ∧ swBlock.busy = false ∧ Inv State.reset ∧
    State.reset.busy = false ∧ decode 0x1500000000000000 ≠ .ok .showFrame :=
  ⟨hwBlock_inv, rfl, swBlock_inv, rfl, reset_inv, rfl, by decide⟩

/-- A word presented where `cmd_ready` is 1 and where it is 0, and an edge with `rst` = 1 on a block that is not busy. -/
theorem witness_CmdReadyIsNotBusyAndNotRst :
    ({ hwBlock with inputs := [.accept 0, .rst] } : State).cfg.wf = true ∧
    ({ hwBlock with inputs := [.accept 0, .rst] } : State).cmdReady = true ∧
    (showing [.accept 0]).cfg.wf = true ∧ (showing [.accept 0]).cmdReady = false ∧
    ({ hwBlock with inputs := [.rst] } : State).cfg.wf = true ∧ ({ hwBlock with inputs := [.rst] } : State).busy = false := by
  decide

/-- A reset of a block with two pads driven. -/
theorem witness_WaveformIsTheDistinctValues :
    Inv { swBlock with inputs := [.reset] } ∧ ∃ t, step { swBlock with inputs := [.reset] } = .next t := by
  obtain ⟨h1, h2, u, h3, h4⟩ := swBlock_inv
  cases h3
  exact ⟨⟨h1.of_same rfl rfl rfl rfl rfl rfl rfl, h2, _, rfl, h4.of_same rfl rfl rfl rfl⟩, _, rfl⟩

/-- `resetNext` tells the inputs apart. -/
theorem witness_resetNext : resetNext [.rst] ∧ resetNext [.reset] ∧ ¬ resetNext [] ∧ ¬ resetNext [.tick true, .rst] := by
  unfold resetNext; decide

theorem witness_StalledShowIsStuckUntilReset :
    (showing [.tick false, .command 1, .accept 2]).cfg.wf = true ∧
    (showing [.tick false, .command 1, .accept 2]).spiTx = some (0, 0xFF) ∧
    ∀ inp ∈ (showing [.tick false, .command 1, .accept 2]).inputs,
      inp = .tick false ∨ ∃ w, inp = .command w ∨ inp = .accept w := by
  refine ⟨by decide, by decide, fun inp h => ?_⟩
  simp only [showing, List.mem_cons, List.not_mem_nil, or_false] at h
  rcases h with rfl | rfl | rfl
  · exact .inl rfl
  · exact .inr ⟨1, .inl rfl⟩
  · exact .inr ⟨2, .inr rfl⟩

end Sys2Proof.Tests
end

namespace Sys2Proof.Machine

/-! ### What every step keeps: the parameters and the traces so far (R9, R12) -/

/-- `t` has the parameters of `s`, and its traces start with those of `s`. -/
structure Continues (s t : State) : Prop where
  cfg : t.cfg = s.cfg
  wire : s.wire <+: t.wire
  rsp : s.rsp <+: t.rsp

@[refl] theorem Continues.refl (s : State) : Continues s s := ⟨rfl, List.prefix_rfl, List.prefix_rfl⟩

/-- A response added at the end keeps what was there. -/
theorem Continues.respond {s t : State} (h : Continues s t) (r : Response) : Continues s (t.respond r) :=
  ⟨h.cfg, h.wire, h.rsp.trans (List.prefix_append _ _)⟩

theorem runOps_continues {ops : List MicroOp} {s t : State} (h : runOps ops s = .ok t) : Continues s t := by
  rw [runOps_frame h]
  exact ⟨rfl, List.prefix_append _ _, List.prefix_rfl⟩

theorem applyOp_continues {op : MicroOp} {s t : State} (h : applyOp op s = .ok t) : Continues s t := by
  rw [applyOp_frame h]
  exact ⟨rfl, List.prefix_append _ _, List.prefix_rfl⟩

theorem runWord_continues {w : Word} {s t : State} (h : runWord w s = .next t) : Continues s t := by
  rw [runWord_eq_plan] at h
  obtain ⟨u, hu, rfl⟩ := Plan.run_next h
  exact (runOps_continues hu).respond _

theorem finish_continues (s : State) (answer : Option Response) : Continues s (s.finish answer) := by
  cases answer with
  | none => exact ⟨rfl, List.prefix_rfl, List.prefix_rfl⟩
  | some r => exact ⟨rfl, List.prefix_rfl, List.prefix_append _ _⟩

/-- What a tick can do, said once: an idle block's port goes quiet, a flight with nothing to come ends, a byte waits for
its peripheral, or the next effect is done or faults. -/
theorem tick_cases (b : Bool) (s : State) :
    (s.engine = .idle ∧ tick b s = .next s.portsQuiet) ∨
    ∃ f, s.engine = .running f ∧
      ((f.pending = [] ∧ tick b s = .next (s.finish f.answer)) ∨
       ∃ op ops, f.pending = op :: ops ∧
        ((op.waits = true ∧ b = false ∧ tick b s = .next s) ∨
         (∃ t, applyOp op s = .ok t ∧
            tick b s = .next { t with engine := .running { f with done := f.done + 1, pending := ops } }) ∨
         ∃ e, applyOp op s = .error e ∧ tick b s = .fault e)) := by
  cases he : s.engine with
  | idle => exact .inl ⟨rfl, tick_idle he⟩
  | running f =>
    refine .inr ⟨f, rfl, ?_⟩
    cases hp : f.pending with
    | nil => exact .inl ⟨rfl, tick_end he hp⟩
    | cons op ops =>
      refine .inr ⟨op, ops, rfl, ?_⟩
      by_cases hw : (op.waits && !b) = true
      · obtain ⟨hop, hb⟩ : op.waits = true ∧ b = false := by simpa using hw
        subst hb
        exact .inl ⟨hop, rfl, tick_wait he hp hop⟩
      · rw [Bool.not_eq_true] at hw
        cases ht : applyOp op s with
        | ok t => exact .inr (.inl ⟨t, rfl, tick_effect he hp hw ht⟩)
        | error e => exact .inr (.inr ⟨e, rfl, by simp [tick, he, hp, hw, ht]⟩)

theorem tick_continues {b : Bool} {s t : State} (h : tick b s = .next t) : Continues s t := by
  rcases tick_cases b s with ⟨-, hq⟩ | ⟨f, -, ⟨-, hend⟩ | ⟨op, ops, -, ⟨-, -, hwait⟩ | ⟨u, hu, hdone⟩ | ⟨e, -, hfault⟩⟩⟩
  · rw [hq] at h; cases h; exact ⟨rfl, List.prefix_rfl, List.prefix_rfl⟩
  · rw [hend] at h; cases h; exact finish_continues s f.answer
  · rw [hwait] at h; cases h; rfl
  · rw [hdone] at h; cases h
    have hc := applyOp_continues hu
    exact ⟨hc.cfg, hc.wire, hc.rsp⟩
  · rw [hfault] at h; cases h

theorem react_continues {inp : Input} {s t : State} (h : react inp s = .next t) : Continues s t := by
  cases inp with
  | command w =>
    cases hb : s.busy with
    | true => rw [react_command_busy hb] at h; cases h; rfl
    | false =>
      rw [react_command_ready hb] at h
      have hc := runWord_continues h
      exact ⟨hc.cfg, hc.wire, hc.rsp⟩
  | accept w =>
    cases hb : s.busy with
    | true => rw [react_accept_busy hb] at h; cases h; rfl
    | false =>
      rw [react_accept_ready hb] at h; cases h
      exact ⟨rfl, List.prefix_rfl, List.prefix_rfl⟩
  | tick b => exact tick_continues h
  | reset => cases h; exact ⟨rfl, List.prefix_append _ _, List.prefix_rfl⟩
  | rst => cases h; exact ⟨rfl, List.prefix_append _ _, List.prefix_rfl⟩

/-- Every step keeps the parameters and appends to the traces. -/
theorem step_continues {s t : State} (h : step s = .next t) : Continues s t := by
  obtain ⟨-, ⟨-, rfl⟩ | ⟨inp, rest, -, hr⟩⟩ := step_cases h
  · rfl
  · have hc := react_continues hr
    exact ⟨hc.cfg, hc.wire, hc.rsp⟩

/-! ### What a step is refused for (R9) -/

theorem runWord_not_refused (w : Word) (s : State) (r : Refusal) : runWord w s ≠ .refused r := by
  cases hd : decode w with
  | ok i => rw [runWord_ok hd]; exact exec_not_refused i s r
  | error e => rw [runWord_error hd]; simp

theorem tick_not_refused (b : Bool) (s : State) (r : Refusal) : tick b s ≠ .refused r := by
  rcases tick_cases b s with ⟨-, h⟩ | ⟨f, -, ⟨-, h⟩ | ⟨op, ops, -, ⟨-, -, h⟩ | ⟨u, -, h⟩ | ⟨e, -, h⟩⟩⟩ <;> simp [h]

theorem react_not_refused (inp : Input) (s : State) (r : Refusal) : react inp s ≠ .refused r := by
  cases inp with
  | command w =>
    cases hb : s.busy with
    | true => simp [react_command_busy hb]
    | false => rw [react_command_ready hb]; exact runWord_not_refused w _ r
  | accept w =>
    cases hb : s.busy with
    | true => simp [react_accept_busy hb]
    | false => simp [react_accept_ready hb]
  | tick b => exact tick_not_refused b s r
  | reset => simp [react]
  | rst => simp [react]

/-- A step is refused for its parameters and for nothing else. -/
theorem step_refused_iff {s : State} {r : Refusal} :
    step s = .refused r ↔ s.cfg.wf = false ∧ r = .badElaboration := by
  cases hw : s.cfg.wf with
  | false => simp [step_bad hw, eq_comm]
  | true =>
    cases hi : s.inputs with
    | nil => simp [step_idle hw hi]
    | cons inp rest => simp [step_input hw hi, react_not_refused]

/-- A selection in range, written out (R19). -/
theorem Transport.wf_iff {t : Transport} {nSpi nPins : Nat} :
    t.wf nSpi nPins = true ↔ (∃ k : Byte, t = .hw k ∧ k.toNat < nSpi) ∨
      ∃ d c : Byte, t = .sw d c ∧ d.toNat < nPins ∧ c.toNat < nPins ∧ d ≠ c := by
  cases t with
  | hw k => simp [Transport.wf_hw]
  | sw d c => simp [Transport.wf_sw, and_assoc]

/-- The ranges of R9, written out. -/
theorem params_wf_iff {p : Config.Params} :
    p.wf = true ↔ p.nMax ≤ 65535 ∧ (1 ≤ p.nInit ∧ p.nInit ≤ 65535) ∧ p.pSpi ≤ 256 ∧
      (2 ≤ p.pPins ∧ p.pPins ≤ 256) ∧ 0 < p.spiClkHz ∧ 1 ≤ p.swPhaseCycles ∧
      p.txInit.wf p.pSpi p.pPins = true := by
  simp only [Config.Params.wf, Bool.and_eq_true, decide_eq_true_eq, and_assoc]

/-! ### A command's effects end (R8, R46, R130) -/

/-- Outputs that exist are driven to the last of them. -/
theorem runOps_drives_ok {es : List OutEvent} {s : State}
    (h : ∀ e ∈ es, ∀ t : State, t.cfg = s.cfg → ∃ u, drive e t = .ok u) :
    ∃ u, runOps (es.map MicroOp.drive) s = .ok u := by
  induction es generalizing s with
  | nil => exact ⟨s, rfl⟩
  | cons e es ih =>
    obtain ⟨v, hv⟩ := h e (by simp) s rfl
    have hcfg : v.cfg = s.cfg := by rw [drive_frame hv]
    obtain ⟨u, hu⟩ := ih (s := v) fun e' he' t ht => h e' (by simp [he']) t (ht.trans hcfg)
    exact ⟨u, (runOps_cons_ok (op := .drive e) hv).trans hu⟩

/-- What delivers a byte on a legal transport drives outputs that exist (R98, R99). -/
theorem drive_deliver_ok {t : Transport} {x : Byte} {e : OutEvent} {s : State}
    (ht : t.wf s.cfg.pSpi s.cfg.pPins = true) (he : e ∈ deliver t x) : ∃ u, drive e s = .ok u := by
  cases t with
  | hw k =>
    obtain rfl : e = .spiByte k x := by simpa [deliver] using he
    exact drive_ok _ s (Transport.wf_hw.mp ht)
  | sw d c =>
    obtain ⟨hd, hc, -⟩ := Transport.wf_sw.mp ht
    obtain ⟨j, -, hj⟩ := List.mem_flatMap.mp he
    simp only [bitWrites, List.mem_cons, List.not_mem_nil, or_false] at hj
    rcases hj with rfl | rfl | rfl
    · exact drive_ok _ s hd
    · exact drive_ok _ s hc
    · exact drive_ok _ s hc

/-- SHOW's effects: the bytes of the frame delivered, or none while ACTIVE = 0 (R97, R103). -/
theorem planShow_ops (s : State) :
    (planShow s).ops = if s.active then ((frame s).flatMap (deliver s.tx)).map MicroOp.drive else [] := by
  have hemit : emit s = fun x => if s.active then (deliver s.tx x).map MicroOp.drive else [] := rfl
  cases ha : s.active <;> simp [planShow, hemit, ha, List.map_flatMap]

theorem runOps_show_ok {s : State} (ht : s.tx.wf s.cfg.pSpi s.cfg.pPins = true) :
    ∃ u, runOps (planShow s).ops s = .ok u := by
  rw [planShow_ops]
  split
  · refine runOps_drives_ok fun e he t hcfg => ?_
    obtain ⟨x, -, hx⟩ := List.mem_flatMap.mp he
    exact drive_deliver_ok (hcfg ▸ ht) hx
  · exact ⟨s, rfl⟩

/-- The bytes of pixel `i` lie in a buffer of more than `i` pixels (R24, R44). -/
theorem runOps_pixelWrites_ok {is : List Nat} {o : ChannelOrder} {r g b : Byte} {s : State}
    (h : ∀ i ∈ is, i < s.n.toNat) : ∃ u, runOps (is.flatMap fun i => pixelWrites o i r g b) s = .ok u := by
  rw [flatMap_pixelWrites_eq]
  refine ⟨_, runOps_writeOps fun w hw => ?_⟩
  obtain ⟨i, hi, hwi⟩ := List.mem_flatMap.mp hw
  have hlt := h i hi
  have hrange := (pixelBytes_range hwi).2
  omega

/-- SETPIX and SETPIXC write a pixel that exists, or nothing (R75, R76). -/
theorem runOps_setPixel_ok (idx : Half) (r g b : Byte) (s : State) :
    ∃ u, runOps (if idx.toNat < s.n.toNat then pixelWrites s.order idx.toNat r g b else []) s = .ok u := by
  split
  · simpa using runOps_pixelWrites_ok (is := [idx.toNat]) (by simpa)
  · exact ⟨s, rfl⟩

/-- FILL's pixels exist (R79). -/
theorem lt_of_mem_fillRange {first count n i : Nat} (h : i ∈ fillRange first count n) : i < n := by
  have hend : fillEnd first count n ≤ n := by unfold fillEnd; split <;> omega
  unfold fillRange at h
  split at h
  · rw [List.mem_range'_1] at h; omega
  · simp at h

theorem runOps_zeroWrites_ok {count : Nat} {s : State} (h : count ≤ s.n.toNat) :
    ∃ u, runOps (zeroWrites count) s = .ok u := by
  rw [zeroWrites_eq]
  refine ⟨_, runOps_writeOps fun w hw => ?_⟩
  obtain ⟨a, ha, rfl⟩ := List.mem_map.mp hw
  have hlt := List.mem_range.mp ha
  show a < 3 * s.n.toNat
  omega

theorem runOps_resize_ok (len : Half) (s : State) : ∃ u, runOps (planResize len s).ops s = .ok u := by
  unfold planResize
  split
  · exact ⟨_, rfl⟩
  · exact runOps_zeroWrites_ok (s := { s with n := len, buf := Memory.below s.buf (3 * len.toNat) }) le_rfl

/-- A legal transport is activated, and ACTIVE then set (R88, R90). -/
theorem runOps_activate_ok {t : Transport} {s : State} (h : t.wf s.cfg.pSpi s.cfg.pPins = true) :
    ∃ u, runOps (activate t ++ [.setActive]) s = .ok u := by
  rw [runOps_append_ok (runOps_activate h)]
  exact ⟨_, rfl⟩

/-- A switch between legal transports (R91, R92). -/
theorem runOps_switchTo_ok {t : Transport} {s : State} (hs : s.tx.wf s.cfg.pSpi s.cfg.pPins = true)
    (ht : t.wf s.cfg.pSpi s.cfg.pPins = true) : ∃ u, runOps (switchTo t s) s = .ok u := by
  obtain ⟨v, hv, hcfg⟩ : ∃ v, runOps (if s.active then teardown s.tx else []) s = .ok v ∧ v.cfg = s.cfg := by
    split
    · exact ⟨_, runOps_teardown hs, by rw [tornDown_frame]⟩
    · exact ⟨s, rfl, rfl⟩
  unfold switchTo
  rw [List.append_assoc, List.append_assoc, runOps_append_ok hv]
  exact runOps_activate_ok (s := { v with tx := t }) (by simpa [hcfg] using ht)

/-- Where TXSEL is legal, no command asks for a byte, a peripheral or a pad that does not exist (R44, R108). -/
theorem runOps_plan_ok (i : Instr) {s : State} (hs : s.tx.wf s.cfg.pSpi s.cfg.pPins = true) :
    ∃ u, runOps (plan i s).ops s = .ok u := by
  cases i with
  | color r g b => exact ⟨s, rfl⟩
  | colorhsv hue sat val => exact ⟨s, rfl⟩
  | gamma32 c => exact ⟨s, rfl⟩
  | resize len => exact runOps_resize_ok len s
  | setpix idx r g b => exact runOps_setPixel_ok idx r g b s
  | setpixc idx c => exact runOps_setPixel_ok idx _ _ _ s
  | getpix idx => exact ⟨s, rfl⟩
  | fill c first count => exact runOps_pixelWrites_ok fun i hi => lt_of_mem_fillRange hi
  | clear => exact runOps_zeroWrites_ok le_rfl
  | numpix => exact ⟨s, rfl⟩
  | setbri b => exact ⟨_, rfl⟩
  | getbri => exact ⟨s, rfl⟩
  | beginTx => exact runOps_activate_ok hs
  | settxhw per =>
    simp only [plan, planSettxhw]
    split
    case isTrue h => exact runOps_switchTo_ok hs (perLegal_iff.mp h)
    case isFalse => exact ⟨s, rfl⟩
  | settxsw dpin cpin =>
    simp only [plan, planSettxsw]
    split
    case isTrue h => exact runOps_switchTo_ok hs (pinsLegal_iff.mp h)
    case isFalse => exact ⟨s, rfl⟩
  | showFrame => exact runOps_show_ok hs

/-- The plan of any word runs to its end. -/
theorem runOps_planWord_ok (w : Word) {s : State} (hs : s.tx.wf s.cfg.pSpi s.cfg.pPins = true) :
    ∃ u, runOps (planWord w s).ops s = .ok u := by
  unfold planWord
  cases decode w with
  | ok i => exact runOps_plan_ok i hs
  | error e => exact ⟨s, rfl⟩

/-! ### Only SHOW waits for a peripheral (R98) -/

theorem waits_of_mem_writeOps {ws : List (Nat × Byte)} {op : MicroOp} (h : op ∈ writeOps ws) : op.waits = false := by
  obtain ⟨w, -, rfl⟩ := List.mem_map.mp h
  rfl

theorem waits_of_mem_setPixel {idx : Half} {r g b : Byte} {s : State} {op : MicroOp}
    (h : op ∈ if idx.toNat < s.n.toNat then pixelWrites s.order idx.toNat r g b else []) : op.waits = false := by
  split at h
  · exact waits_of_mem_writeOps (pixelWrites_eq .. ▸ h)
  · simp at h

theorem waits_of_mem_zeroWrites {count : Nat} {op : MicroOp} (h : op ∈ zeroWrites count) : op.waits = false :=
  waits_of_mem_writeOps (zeroWrites_eq count ▸ h)

theorem waits_of_mem_activate {t : Transport} {op : MicroOp} (h : op ∈ activate t ++ [.setActive]) :
    op.waits = false := by
  have hall : ∀ op ∈ activate t ++ [.setActive], op.waits = false := by cases t <;> simp [activate, MicroOp.waits]
  exact hall op h

theorem waits_of_mem_teardown {t : Transport} {op : MicroOp} (h : op ∈ teardown t) : op.waits = false := by
  have hall : ∀ op ∈ teardown t, op.waits = false := by cases t <;> simp [teardown, MicroOp.waits]
  exact hall op h

theorem waits_of_mem_switchTo {t : Transport} {s : State} {op : MicroOp} (h : op ∈ switchTo t s) : op.waits = false := by
  rw [switchTo, List.append_assoc, List.append_assoc, List.mem_append, List.mem_append] at h
  rcases h with h | h | h
  · split at h
    · exact waits_of_mem_teardown h
    · simp at h
  · obtain rfl := List.mem_singleton.mp h
    rfl
  · exact waits_of_mem_activate h

theorem waits_of_mem_plan {i : Instr} {s : State} {op : MicroOp} (hi : i ≠ .showFrame) (h : op ∈ (plan i s).ops) :
    op.waits = false := by
  cases i with
  | color r g b => cases h
  | colorhsv hue sat val => cases h
  | gamma32 c => cases h
  | resize len =>
    simp only [plan, planResize] at h
    split at h
    · obtain rfl := List.mem_singleton.mp h
      rfl
    · rcases List.mem_cons.mp h with rfl | h
      · rfl
      · exact waits_of_mem_zeroWrites h
  | setpix idx r g b => exact waits_of_mem_setPixel h
  | setpixc idx c => exact waits_of_mem_setPixel h
  | getpix idx => cases h
  | fill c first count =>
    rw [plan, planFill, Plan.doing, flatMap_pixelWrites_eq] at h
    exact waits_of_mem_writeOps h
  | clear => exact waits_of_mem_zeroWrites h
  | numpix => cases h
  | setbri b =>
    obtain rfl := List.mem_singleton.mp h
    rfl
  | getbri => cases h
  | beginTx => exact waits_of_mem_activate h
  | settxhw per =>
    simp only [plan, planSettxhw] at h
    split at h
    · exact waits_of_mem_switchTo h
    · cases h
  | settxsw dpin cpin =>
    simp only [plan, planSettxsw] at h
    split at h
    · exact waits_of_mem_switchTo h
    · cases h
  | showFrame => exact absurd rfl hi

theorem waits_of_mem_planWord {w : Word} {s : State} {op : MicroOp} (hw : decode w ≠ .ok .showFrame)
    (h : op ∈ (planWord w s).ops) : op.waits = false := by
  unfold planWord at h
  split at h
  case h_1 i hd => exact waits_of_mem_plan (fun hi => hw (hi ▸ hd)) h
  case h_2 => cases h

/-! ### A word at both levels (R8) -/

/-- `u`, where the effects of a word accepted at `s` have led, as the block at `s` with the inputs `rest` holds it: engine
`e`, the response port at 0 since acceptance, and no response traced yet. -/
def State.inFlight (u s : State) (e : Engine) (rest : List Input) : State := u.reshell e none u.wire s.rsp rest

/-- The effects of a word, done after the port went quiet and the inputs were set to `rest`. -/
theorem runOps_inFlight {ops : List MicroOp} {s u : State} (hu : runOps ops s = .ok u) (e : Engine) (rest : List Input) :
    runOps ops (s.inFlight s e rest) = .ok (u.inFlight s e rest) := by
  have hwire : u.wire = s.wire ++ (opEvents ops).map .out := by rw [runOps_frame hu]
  unfold State.inFlight
  rw [hwire]
  exact runOps_reshell hu e none s.wire s.rsp rest

/-- The flight of a word at `s` that did its first `k` effects and has `ops` to come. -/
def flightOf (w : Word) (s : State) (k : Nat) (ops : List MicroOp) : Flight :=
  ⟨(planWord w s).isShow, k, ops, some (planWord w s).answer⟩

theorem step_with_input {s : State} (inp : Input) (rest : List Input) (hw : s.cfg.wf = true) :
    step { s with inputs := inp :: rest } = react inp { s with inputs := rest } :=
  step_input (s := { s with inputs := inp :: rest }) hw rfl

/-- The plan of a word reads neither the response port nor the inputs. -/
theorem planWord_portsQuiet (w : Word) (s : State) (rest : List Input) :
    planWord w (State.portsQuiet { s with inputs := rest }) = planWord w s :=
  planWord_reshell w s s.engine none s.wire s.rsp rest

/-- A word as one step: its effects, then its response. -/
theorem step_command {s u : State} {w : Word} (rest : List Input) (hw : s.cfg.wf = true) (hb : s.busy = false)
    (hu : runOps (planWord w s).ops s = .ok u) :
    step { s with inputs := .command w :: rest } =
      .next ((u.inFlight s .idle rest).respond (planWord w s).answer) := by
  have hstart : State.portsQuiet { s with inputs := rest } = s.inFlight s .idle rest := by
    rw [← busy_eq_false_iff.mp hb]
    rfl
  calc step { s with inputs := .command w :: rest }
      = runWord w (State.portsQuiet { s with inputs := rest }) :=
        (step_with_input _ _ hw).trans (react_command_ready hb)
    _ = (planWord w s).run (s.inFlight s .idle rest) := by rw [runWord_eq_plan, planWord_portsQuiet, hstart]
    _ = .next ((u.inFlight s .idle rest).respond (planWord w s).answer) := Plan.run_of_ok (runOps_inFlight hu _ _)

/-- A word accepted: its effects are to come. -/
theorem step_accept {s : State} (w : Word) (rest : List Input) (hw : s.cfg.wf = true) (hb : s.busy = false) :
    step { s with inputs := .accept w :: rest } =
      .next (s.inFlight s (.running (flightOf w s 0 (planWord w s).ops)) rest) :=
  calc step { s with inputs := .accept w :: rest }
      = .next (startWord w (State.portsQuiet { s with inputs := rest })) :=
        (step_with_input _ _ hw).trans (react_accept_ready hb)
    _ = .next (s.inFlight s (.running (flightOf w s 0 (planWord w s).ops)) rest) := by
        rw [startWord, planWord_portsQuiet]
        rfl

/-- A word accepted and its first effects `a` done tick by tick, `b` still to come. -/
theorem run_accept_ticks {s u : State} {w : Word} {a b : List MicroOp} {readies : List Bool} {rest : List Input}
    (hw : s.cfg.wf = true) (hb : s.busy = false) (hp : (planWord w s).ops = a ++ b) (hu : runOps a s = .ok u)
    (hlen : readies.length = a.length) (hg : (∀ x ∈ readies, x = true) ∨ ∀ op ∈ a, op.waits = false) :
    Sys2Proof.core.run (a.length + 1) { s with inputs := .accept w :: (readies.map .tick ++ rest) } =
      .next (u.inFlight s (.running (flightOf w s a.length b)) rest) := by
  rw [run_succ_next (step_accept w _ hw hb)]
  refine (run_ticks (s := s.inFlight s _ _) hw rfl hp (runOps_inFlight hu _ _) rfl hlen hg).trans ?_
  simp [State.advanced, State.inFlight, State.reshell, flightOf]

/-- With nothing more to come, the next tick gives the response. -/
theorem step_tick_response {s u : State} {w : Word} {k : Nat} {rest : List Input} (b : Bool) (hw : u.cfg.wf = true) :
    step (u.inFlight s (.running (flightOf w s k [])) (.tick b :: rest)) =
      .next ((u.inFlight s .idle rest).respond (planWord w s).answer) := by
  have hend : tick b (u.inFlight s (.running (flightOf w s k [])) rest) =
      .next ((u.inFlight s .idle rest).respond (planWord w s).answer) := tick_end (f := flightOf w s k []) rfl rfl
  exact (step_with_input (s := u.inFlight s _ rest) (.tick b) rest hw).trans hend

/-- A word accepted and all its effects done tick by tick, and one tick more for its response. -/
theorem run_accept_to_response {s u : State} {w : Word} {readies : List Bool} {rest : List Input}
    (hw : s.cfg.wf = true) (hb : s.busy = false) (hu : runOps (planWord w s).ops s = .ok u)
    (hlen : readies.length = (planWord w s).ops.length + 1)
    (hg : (∀ x ∈ readies, x = true) ∨ ∀ op ∈ (planWord w s).ops, op.waits = false) :
    Sys2Proof.core.run ((planWord w s).ops.length + 2) { s with inputs := .accept w :: (readies.map .tick ++ rest) } =
      .next ((u.inFlight s .idle rest).respond (planWord w s).answer) := by
  obtain ⟨front, last, rfl⟩ : ∃ front last, readies = front ++ [last] :=
    ⟨_, _, (List.dropLast_append_getLast (List.ne_nil_of_length_eq_add_one hlen)).symm⟩
  have hticks : (front ++ [last]).map Input.tick ++ rest = front.map .tick ++ (.tick last :: rest) := by simp
  have hrun := run_accept_ticks (rest := .tick last :: rest) hw hb (List.append_nil _).symm hu (by simpa using hlen)
    (hg.imp_left fun h x hx => h x (by simp [hx]))
  have hwu : u.cfg.wf = true := by rw [runOps_frame hu]; exact hw
  rw [hticks]
  exact (run_add (b := 1) hrun).trans ((run_one _).trans (step_tick_response _ hwu))

end Sys2Proof.Machine

namespace Sys2Proof.Claims

open Sys2Proof Sys2Proof.Machine

/-- Settles O49: every step continues the traces it starts from. -/
theorem tracesOnlyGrow : Obligations.TracesOnlyGrow :=
  fun _ _ h => ⟨(step_continues h).wire, (step_continues h).rsp⟩

/-- Settles O50: a step keeps the parameters, and only `Config.Params.wf`, which is the ranges of R9, refuses one. -/
theorem elaborationRefusedOrFixed : Obligations.ElaborationRefusedOrFixed := by
  refine ⟨fun s t h => (step_continues h).cfg, fun s => ?_⟩
  rw [step_refused_iff, ← Transport.wf_iff, ← params_wf_iff]
  simp

/-- Settles O52: both levels run the word's plan, which ends without a fault since TXSEL is legal, and only the effects of
SHOW wait. -/
theorem effectsEndAsTheAtomicStep : Obligations.EffectsEndAsTheAtomicStep := by
  intro s w rest hinv hb
  have hw := hinv.sound.params
  obtain ⟨u, hu⟩ := runOps_planWord_ok w hinv.sound.selection
  refine ⟨(planWord w s).ops.length, _, step_command rest hw hb hu, fun readies hlen hg => ?_⟩
  exact run_accept_to_response hw hb hu hlen (hg.imp_right fun hshow op hop => waits_of_mem_planWord hshow hop)

end Sys2Proof.Claims

namespace Sys2Proof.Machine

/-! ### What a command's effects can be (R19, R37, R108) -/

/-- An event that carries data to the strip (R98, R99): it opens, closes and switches no output. -/
def OutEvent.carriesData : OutEvent → Bool
  | .spiByte _ _ => true
  | .padWrite _ _ => true
  | .spiOpen _ => false
  | .spiClose _ => false
  | .padMode _ _ => false

/-- The commands that switch the transport (R91, R92). -/
def Switches (i : Instr) : Prop := (∃ k, i = .settxhw k) ∨ ∃ d c, i = .settxsw d c

/-- The commands that write the buffer (R37). -/
def WritesBuffer (i : Instr) : Prop :=
  (∃ idx r g b, i = .setpix idx r g b) ∨ (∃ idx c, i = .setpixc idx c) ∨ (∃ c first count, i = .fill c first count) ∨
    i = .clear ∨ ∃ len, i = .resize len

/-- The commands that may do an effect (R19, R25, R37), and the operand checks passed by then (R73, R91, R92). -/
def MayDo (p : Config.Params) (i : Instr) : MicroOp → Prop
  | .setN n => (∃ len, i = .resize len) ∧ n.toNat ≤ p.nMax
  | .setBri _ => ∃ b, i = .setbri b
  | .setTx t => Switches i ∧ t.wf p.pSpi p.pPins = true
  | .setActive => i = .beginTx ∨ Switches i
  | .memWrite _ _ => WritesBuffer i
  | .drive e => i = .beginTx ∨ Switches i ∨ i = .showFrame ∧ e.carriesData = true

theorem mem_writeOps {ws : List (Nat × Byte)} {op : MicroOp} (h : op ∈ writeOps ws) : ∃ a v, op = .memWrite a v := by
  obtain ⟨w, -, rfl⟩ := List.mem_map.mp h
  exact ⟨_, _, rfl⟩

theorem mem_zeroWrites {count : Nat} {op : MicroOp} (h : op ∈ zeroWrites count) : ∃ a v, op = .memWrite a v :=
  mem_writeOps (zeroWrites_eq count ▸ h)

theorem mem_setPixel {idx : Half} {r g b : Byte} {s : State} {op : MicroOp}
    (h : op ∈ if idx.toNat < s.n.toNat then pixelWrites s.order idx.toNat r g b else []) : ∃ a v, op = .memWrite a v := by
  split at h
  · exact mem_writeOps (pixelWrites_eq .. ▸ h)
  · cases h

theorem mem_activate {t : Transport} {op : MicroOp} (h : op ∈ activate t ++ [.setActive]) :
    (∃ e, op = .drive e) ∨ op = .setActive := by
  have hall : ∀ op ∈ activate t ++ [.setActive], (∃ e, op = .drive e) ∨ op = .setActive := by
    cases t <;> simp [activate]
  exact hall op h

theorem mem_teardown {t : Transport} {op : MicroOp} (h : op ∈ teardown t) : ∃ e, op = .drive e := by
  have hall : ∀ op ∈ teardown t, ∃ e, op = .drive e := by cases t <;> simp [teardown]
  exact hall op h

theorem mem_switchTo {t : Transport} {s : State} {op : MicroOp} (h : op ∈ switchTo t s) :
    (∃ e, op = .drive e) ∨ op = .setTx t ∨ op = .setActive := by
  rw [switchTo, List.append_assoc, List.append_assoc, List.mem_append, List.mem_append] at h
  rcases h with h | h | h
  · split at h
    · exact .inl (mem_teardown h)
    · cases h
  · exact .inr (.inl (List.mem_singleton.mp h))
  · exact (mem_activate h).imp_right .inr

/-- On two pads a byte is delivered by pad writes alone (R99). -/
theorem mem_deliver_sw {d c x : Byte} {e : OutEvent} (h : e ∈ deliver (.sw d c) x) : ∃ p v, e = .padWrite p v := by
  obtain ⟨j, -, hj⟩ := List.mem_flatMap.mp h
  simp only [bitWrites, List.mem_cons, List.not_mem_nil, or_false] at hj
  rcases hj with rfl | rfl | rfl <;> exact ⟨_, _, rfl⟩

theorem carriesData_of_mem_deliver {t : Transport} {x : Byte} {e : OutEvent} (h : e ∈ deliver t x) :
    e.carriesData = true := by
  cases t with
  | hw k =>
    obtain rfl := List.mem_singleton.mp h
    rfl
  | sw d c =>
    obtain ⟨p, v, rfl⟩ := mem_deliver_sw h
    rfl

/-- SHOW does nothing but drive data to the selected transport. -/
theorem mem_planShow {s : State} {op : MicroOp} (h : op ∈ (planShow s).ops) :
    ∃ e, op = .drive e ∧ e.carriesData = true := by
  rw [planShow_ops] at h
  split at h
  · obtain ⟨e, he, rfl⟩ := List.mem_map.mp h
    obtain ⟨x, -, hx⟩ := List.mem_flatMap.mp he
    exact ⟨e, rfl, carriesData_of_mem_deliver hx⟩
  · cases h

/-- A switch to a legal transport does what a switch may do. -/
theorem mayDo_of_mem_switchTo {i : Instr} {t : Transport} {s : State} {op : MicroOp} (hi : Switches i)
    (ht : t.wf s.cfg.pSpi s.cfg.pPins = true) (h : op ∈ switchTo t s) : MayDo s.cfg i op := by
  rcases mem_switchTo h with ⟨e, rfl⟩ | rfl | rfl
  · exact .inr (.inl hi)
  · exact ⟨hi, ht⟩
  · exact .inr hi

/-- What a command's plan holds, said once. -/
theorem mayDo_of_mem_plan {i : Instr} {s : State} {op : MicroOp} (h : op ∈ (plan i s).ops) : MayDo s.cfg i op := by
  cases i with
  | color r g b => cases h
  | colorhsv hue sat val => cases h
  | gamma32 c => cases h
  | resize len =>
    simp only [plan, planResize] at h
    split at h
    case isTrue =>
      obtain rfl := List.mem_singleton.mp h
      exact ⟨⟨len, rfl⟩, Nat.zero_le _⟩
    case isFalse hlen =>
      rcases List.mem_cons.mp h with rfl | h
      · exact ⟨⟨len, rfl⟩, not_lt.mp hlen⟩
      · obtain ⟨a, v, rfl⟩ := mem_zeroWrites h
        simp [MayDo, WritesBuffer]
  | setpix idx r g b =>
    obtain ⟨a, v, rfl⟩ := mem_setPixel h
    simp [MayDo, WritesBuffer]
  | setpixc idx c =>
    obtain ⟨a, v, rfl⟩ := mem_setPixel h
    simp [MayDo, WritesBuffer]
  | getpix idx => cases h
  | fill c first count =>
    rw [plan, planFill, Plan.doing, flatMap_pixelWrites_eq] at h
    obtain ⟨a, v, rfl⟩ := mem_writeOps h
    simp [MayDo, WritesBuffer]
  | clear =>
    obtain ⟨a, v, rfl⟩ := mem_zeroWrites h
    simp [MayDo, WritesBuffer]
  | numpix => cases h
  | setbri b =>
    obtain rfl := List.mem_singleton.mp h
    exact ⟨b, rfl⟩
  | getbri => cases h
  | beginTx =>
    rcases mem_activate h with ⟨e, rfl⟩ | rfl
    · exact .inl rfl
    · exact .inl rfl
  | settxhw per =>
    simp only [plan, planSettxhw] at h
    split at h
    case isTrue hper => exact mayDo_of_mem_switchTo (.inl ⟨per, rfl⟩) (perLegal_iff.mp hper) h
    case isFalse => cases h
  | settxsw dpin cpin =>
    simp only [plan, planSettxsw] at h
    split at h
    case isTrue hpins => exact mayDo_of_mem_switchTo (.inr ⟨dpin, cpin, rfl⟩) (pinsLegal_iff.mp hpins) h
    case isFalse => cases h
  | showFrame =>
    obtain ⟨e, rfl, he⟩ := mem_planShow h
    exact .inr (.inr ⟨rfl, he⟩)

/-- A command's effects keep N and TXSEL legal (R19). -/
theorem legal_of_mayDo {p : Config.Params} {i : Instr} {op : MicroOp} (h : MayDo p i op) : op.legal p = true := by
  cases op with
  | setN n => exact decide_eq_true h.2
  | setTx t => exact h.2
  | setBri b => rfl
  | setActive => rfl
  | memWrite a v => rfl
  | drive e => rfl

theorem legal_of_mem_planWord {w : Word} {s : State} {op : MicroOp} (h : op ∈ (planWord w s).ops) :
    op.legal s.cfg = true := by
  unfold planWord at h
  split at h
  · exact legal_of_mayDo (mayDo_of_mem_plan h)
  · cases h

/-! ### What a command leaves as it was (R19, R25) -/

theorem runOps_cons_inv {op : MicroOp} {ops : List MicroOp} {s u : State} (h : runOps (op :: ops) s = .ok u) :
    ∃ v, applyOp op s = .ok v ∧ runOps ops v = .ok u := by
  cases hop : applyOp op s with
  | error f => simp [runOps, hop] at h
  | ok v => exact ⟨v, rfl, by simpa [runOps, hop] using h⟩

/-- What each effect keeps unless `P`, a list of them keeps unless `P`. -/
theorem runOps_keeps_or {α : Type} {P : Prop} (f : State → α) {ops : List MicroOp} {s u : State}
    (hop : ∀ op ∈ ops, ∀ v t, applyOp op v = .ok t → f t = f v ∨ P) (h : runOps ops s = .ok u) : f u = f s ∨ P := by
  induction ops generalizing s with
  | nil => cases h; exact .inl rfl
  | cons op ops ih =>
    obtain ⟨v, hv, hu⟩ := runOps_cons_inv h
    rcases hop op (by simp) s v hv with hfv | hP
    · exact hfv ▸ ih (fun o ho => hop o (by simp [ho])) hu
    · exact .inr hP

theorem memWrite_frame {a : Nat} {v : Byte} {s t : State} (h : applyOp (.memWrite a v) s = .ok t) :
    t = { s with buf := t.buf } := by
  simp only [applyOp] at h
  split at h <;> cases h
  rfl

/-- Data changes the level of a pad at most. -/
theorem drive_data_keeps {e : OutEvent} {s t : State} (he : e.carriesData = true) (h : drive e s = .ok t) :
    (t.spiOpen, t.padOe) = (s.spiOpen, s.padOe) := by
  cases e with
  | spiByte k x => simp only [drive] at h; split at h <;> cases h; rfl
  | padWrite p v => simp only [drive] at h; split at h <;> cases h; rfl
  | spiOpen k => cases he
  | spiClose k => cases he
  | padMode p m => cases he

/-- Which parts of the state have changed from `s` to `t` by the effect `op`, and which kind of effect changes them. -/
structure ChangedBy (op : MicroOp) (s t : State) : Prop where
  n : t.n = s.n ∨ ∃ n, op = .setN n
  bri : t.bri = s.bri ∨ ∃ b, op = .setBri b
  tx : t.tx = s.tx ∨ ∃ u, op = .setTx u
  active : t.active = s.active ∨ op = .setActive
  switched : (t.spiOpen, t.padOe) = (s.spiOpen, s.padOe) ∨ ∃ e, op = .drive e ∧ e.carriesData = false
  levels : (t.padOut, t.wire) = (s.padOut, s.wire) ∨ ∃ e, op = .drive e

theorem applyOp_changedBy {op : MicroOp} {s t : State} (h : applyOp op s = .ok t) : ChangedBy op s t := by
  cases op with
  | setN n => cases h; constructor <;> simp
  | setBri b => cases h; constructor <;> simp
  | setTx u => cases h; constructor <;> simp
  | setActive => cases h; constructor <;> simp
  | memWrite a v => rw [memWrite_frame h]; constructor <;> simp
  | drive e =>
    have hswitched : (t.spiOpen, t.padOe) = (s.spiOpen, s.padOe) ∨ e.carriesData = false := by
      cases he : e.carriesData with
      | true => exact .inl (drive_data_keeps he h)
      | false => exact .inr rfl
    have hframe := drive_frame h
    exact ⟨.inl (by rw [hframe]), .inl (by rw [hframe]), .inl (by rw [hframe]), .inl (by rw [hframe]),
      hswitched.imp_right fun he => ⟨e, rfl, he⟩, .inr ⟨e, rfl⟩⟩

section
variable {i : Instr} {s u : State} (h : runOps (plan i s).ops s = .ok u)
include h

/-- A part of the state that only effects of kind `K` change is kept by a command that has none of them. -/
theorem plan_keeps_or {α : Type} {P : Prop} (f : State → α) {K : MicroOp → Prop}
    (hf : ∀ op v t, applyOp op v = .ok t → f t = f v ∨ K op) (hK : ∀ op, K op → MayDo s.cfg i op → P) :
    f u = f s ∨ P :=
  runOps_keeps_or f (fun op hop v t ht => (hf op v t ht).imp_right fun hk => hK op hk (mayDo_of_mem_plan hop)) h

theorem plan_n : u.n = s.n ∨ ∃ len, i = .resize len :=
  plan_keeps_or h State.n (fun _ _ _ ht => (applyOp_changedBy ht).n) (by rintro _ ⟨n, rfl⟩ ⟨hi, -⟩; exact hi)

theorem plan_bri : u.bri = s.bri ∨ ∃ b, i = .setbri b :=
  plan_keeps_or h State.bri (fun _ _ _ ht => (applyOp_changedBy ht).bri) (by rintro _ ⟨b, rfl⟩ hi; exact hi)

theorem plan_tx : u.tx = s.tx ∨ Switches i :=
  plan_keeps_or h State.tx (fun _ _ _ ht => (applyOp_changedBy ht).tx) (by rintro _ ⟨t, rfl⟩ ⟨hi, -⟩; exact hi)

theorem plan_active : u.active = s.active ∨ i = .beginTx ∨ Switches i :=
  plan_keeps_or h State.active (fun _ _ _ ht => (applyOp_changedBy ht).active) (by rintro _ rfl hi; exact hi)

theorem plan_switched : u.spiOpen = s.spiOpen ∧ u.padOe = s.padOe ∨ i = .beginTx ∨ Switches i := by
  rw [← Prod.mk.injEq]
  refine plan_keeps_or h (fun v => (v.spiOpen, v.padOe)) (fun _ _ _ ht => (applyOp_changedBy ht).switched) ?_
  rintro _ ⟨e, rfl, he⟩ (hi | hi | ⟨-, hdata⟩)
  · exact .inl hi
  · exact .inr hi
  · simp [hdata] at he

theorem plan_levels : u.padOut = s.padOut ∧ u.wire = s.wire ∨ i = .showFrame ∨ i = .beginTx ∨ Switches i := by
  rw [← Prod.mk.injEq]
  refine plan_keeps_or h (fun v => (v.padOut, v.wire)) (fun _ _ _ ht => (applyOp_changedBy ht).levels) ?_
  rintro _ ⟨e, rfl⟩ (hi | hi | ⟨hi, -⟩)
  · exact .inr (.inl hi)
  · exact .inr (.inr hi)
  · exact .inl hi

end

/-! ### A command ends with the outputs of its selection on (R23, R26) -/

/-- No peripheral is open and no pad driven. -/
def OutputsOff (s : State) : Prop := (∀ k, s.spiOpenAt k = false) ∧ ∀ p, s.padOeAt p = false

/-- An active selection torn down leaves every output off. -/
theorem outputsOff_of_teardown {s v : State} (hs : Sound s) (hm : OutputsMatch s)
    (h : runOps (if s.active then teardown s.tx else []) s = .ok v) : OutputsOff v := by
  split at h
  case isTrue ha =>
    rw [runOps_teardown hs.selection] at h
    cases h
    obtain ⟨hspi, hpad⟩ := tornDown_outputs hs.selection hs.spiWidth hs.oeWidth
    exact ⟨fun k => by rw [hspi, hm.spi, ha]; simp, fun p => by rw [hpad, hm.pad, ha]; simp⟩
  case isFalse ha =>
    cases h
    exact ⟨fun k => by rw [hm.spi]; simp [ha], fun p => by rw [hm.pad]; simp [ha]⟩

/-- Where no output of another transport is on, activating the selection leaves exactly its outputs on. -/
theorem outputsMatch_of_activate {s u : State} (hs : Sound s) (hspi : ∀ k, s.spiOpenAt k = true → usesSpi s.tx k = true)
    (hpad : ∀ p, s.padOeAt p = true → usesPad s.tx p = true)
    (h : runOps (activate s.tx ++ [.setActive]) s = .ok u) : OutputsMatch u := by
  rw [runOps_append_ok (runOps_activate hs.selection)] at h
  cases h
  have htx : (s.activated s.tx).tx = s.tx := by rw [activated_frame]
  obtain ⟨hspi', hpad', -⟩ := activated_outputs hs.selection hs.spiWidth hs.oeWidth hs.outWidth
  constructor
  · intro k
    show (s.activated s.tx).spiOpenAt k = (true && usesSpi (s.activated s.tx).tx k)
    rw [hspi', htx, Bool.true_and, ← Bool.eq_self_or.mpr (hspi k)]
  · intro p
    show (s.activated s.tx).padOeAt p = (true && usesPad (s.activated s.tx).tx p)
    rw [hpad', htx, Bool.true_and, ← Bool.eq_self_or.mpr (hpad p)]

theorem begin_outputsMatch {s u : State} (hs : Sound s) (hm : OutputsMatch s)
    (h : runOps (activate s.tx ++ [.setActive]) s = .ok u) : OutputsMatch u := by
  refine outputsMatch_of_activate hs (fun k hk => ?_) (fun p hp => ?_) h
  · rw [hm.spi] at hk; exact (Bool.and_eq_true_iff.mp hk).2
  · rw [hm.pad] at hp; exact (Bool.and_eq_true_iff.mp hp).2

theorem switchTo_outputsMatch {t : Transport} {s u : State} (hs : Sound s) (hm : OutputsMatch s)
    (ht : t.wf s.cfg.pSpi s.cfg.pPins = true) (h : runOps (switchTo t s) s = .ok u) : OutputsMatch u := by
  rw [switchTo, List.append_assoc, List.append_assoc] at h
  obtain ⟨v, hv, hu⟩ := runOps_prefix_ok h
  obtain ⟨hspi, hpad⟩ := outputsOff_of_teardown hs hm hv
  have hcfg : v.cfg = s.cfg := by rw [runOps_frame hv]
  have hlegal : ∀ op ∈ (if s.active then teardown s.tx else []), op.legal s.cfg = true := by
    intro op hop
    split at hop
    · obtain ⟨e, rfl⟩ := mem_teardown hop
      rfl
    · cases hop
  have hsv : Sound v := runOps_sound hs hlegal hv
  have hsel : Sound { v with tx := t } := applyOp_sound (op := .setTx t) hsv (hcfg ▸ ht) rfl
  refine outputsMatch_of_activate hsel (fun k hk => ?_) (fun p hp => ?_) hu
  · exact absurd ((hspi k).symm.trans hk) (by simp)
  · exact absurd ((hpad p).symm.trans hp) (by simp)

theorem plan_outputsMatch {i : Instr} {s u : State} (hs : Sound s) (hm : OutputsMatch s)
    (h : runOps (plan i s).ops s = .ok u) : OutputsMatch u := by
  by_cases hi : i = .beginTx ∨ Switches i
  · rcases hi with rfl | ⟨per, rfl⟩ | ⟨d, c, rfl⟩
    · exact begin_outputsMatch hs hm h
    · simp only [plan, planSettxhw] at h
      split at h
      case isTrue hper => exact switchTo_outputsMatch hs hm (perLegal_iff.mp hper) h
      case isFalse => cases h; exact hm
    · simp only [plan, planSettxsw] at h
      split at h
      case isTrue hpins => exact switchTo_outputsMatch hs hm (pinsLegal_iff.mp hpins) h
      case isFalse => cases h; exact hm
  · obtain ⟨hspi, hoe⟩ := (plan_switched h).resolve_right hi
    exact hm.of_same hspi hoe ((plan_active h).resolve_right hi) ((plan_tx h).resolve_right fun hsw => hi (.inr hsw))

theorem planWord_outputsMatch {w : Word} {s u : State} (hs : Sound s) (hm : OutputsMatch s)
    (h : runOps (planWord w s).ops s = .ok u) : OutputsMatch u := by
  unfold planWord at h
  split at h
  · exact plan_outputsMatch hs hm h
  · cases h; exact hm

/-! ### The invariant, step by step -/

/-- The invariant depends on the engine by its effects to come only, and not on the ports, the traces and the inputs. -/
theorem inv_reshell {s t : State} {e : Engine} (hs : Sound s) (hl : ∀ op ∈ e.pending, op.legal s.cfg = true)
    (ht : runOps e.pending s = .ok t) (hm : OutputsMatch t) (rp : Option Response) (w : List WireEvent)
    (r : List Response) (ins : List Input) : Inv (s.reshell e rp w r ins) :=
  ⟨hs.of_same rfl rfl rfl rfl rfl rfl rfl, hl, _, runOps_reshell ht e rp w r ins, hm.of_same rfl rfl rfl rfl⟩

theorem Inv.reshell {s : State} (h : Inv s) (rp : Option Response) (w : List WireEvent) (r : List Response)
    (ins : List Input) : Inv (s.reshell s.engine rp w r ins) := by
  obtain ⟨hs, hl, t, ht, hm⟩ := h
  exact inv_reshell hs hl ht hm rp w r ins

/-- A block without effects to come keeps the invariant with the engine idle. -/
theorem Inv.reshell_idle {s : State} (h : Inv s) (hp : s.engine.pending = []) (rp : Option Response) (w : List WireEvent)
    (r : List Response) (ins : List Input) : Inv (s.reshell .idle rp w r ins) := by
  obtain ⟨hs, -, t, ht, hm⟩ := h
  rw [hp] at ht
  exact inv_reshell (e := .idle) hs (by simp [Engine.pending]) ht hm rp w r ins

/-- With BUSY = 0 the outputs match the selection. -/
theorem Inv.outputsMatch {s : State} (h : Inv s) (hb : s.busy = false) : OutputsMatch s := by
  obtain ⟨-, -, t, ht, hm⟩ := h
  rw [busy_eq_false_iff.mp hb] at ht
  cases ht
  exact hm

theorem runWord_inv {w : Word} {s t : State} (h : Inv s) (hb : s.busy = false) (ht : runWord w s = .next t) : Inv t := by
  rw [runWord_eq_plan] at ht
  obtain ⟨u, hu, rfl⟩ := Plan.run_next ht
  have he : u.engine = .idle := by rw [runOps_frame hu]; exact busy_eq_false_iff.mp hb
  have hsu : Sound u := runOps_sound h.sound (fun _ => legal_of_mem_planWord) hu
  have hmu : OutputsMatch u := planWord_outputsMatch h.sound (h.outputsMatch hb) hu
  have hinv : Inv u := ⟨hsu, by simp [he, Engine.pending], u, by rw [he]; rfl, hmu⟩
  exact hinv.reshell _ _ _ _

theorem startWord_inv (w : Word) {s : State} (h : Inv s) (hb : s.busy = false) : Inv (startWord w s) := by
  obtain ⟨u, hu⟩ := runOps_planWord_ok w h.sound.selection
  exact inv_reshell (e := (startWord w s).engine) h.sound (fun _ => legal_of_mem_planWord) hu
    (planWord_outputsMatch h.sound (h.outputsMatch hb) hu) _ _ _ _

theorem finish_inv {s : State} (h : Inv s) (hp : s.engine.pending = []) (answer : Option Response) :
    Inv (s.finish answer) := by
  cases answer with
  | none => exact h.reshell_idle hp _ _ _ _
  | some r => exact h.reshell_idle hp _ _ _ _

/-- An effect done leaves one effect less to come, and the same end. -/
theorem effect_inv {s v : State} {f : Flight} {op : MicroOp} {ops : List MicroOp} {k : Nat} (h : Inv s)
    (he : s.engine = .running f) (hp : f.pending = op :: ops) (hv : applyOp op s = .ok v) :
    Inv { v with engine := .running { f with done := k, pending := ops } } := by
  obtain ⟨hs, hl, t, ht, hm⟩ := h
  have hpend : s.engine.pending = op :: ops := by rw [he]; exact hp
  rw [hpend] at hl ht
  rw [runOps_cons_ok hv] at ht
  have hcfg : v.cfg = s.cfg := by rw [applyOp_frame hv]
  exact inv_reshell (e := .running { f with done := k, pending := ops }) (applyOp_sound hs (hl op (by simp)) hv)
    (fun o ho => by rw [hcfg]; exact hl o (List.mem_cons_of_mem _ ho)) ht hm _ _ _ _

theorem tick_inv {b : Bool} {s t : State} (h : Inv s) (ht : tick b s = .next t) : Inv t := by
  rcases tick_cases b s with
    ⟨-, hq⟩ | ⟨f, he, ⟨hp, hend⟩ | ⟨op, ops, hp, ⟨-, -, hwait⟩ | ⟨u, hu, hdone⟩ | ⟨e, -, hfault⟩⟩⟩
  · rw [hq] at ht; cases ht; exact h.reshell _ _ _ _
  · rw [hend] at ht; cases ht; exact finish_inv h (by rw [he]; exact hp) _
  · rw [hwait] at ht; cases ht; exact h
  · rw [hdone] at ht; cases ht; exact effect_inv h he hp hu
  · rw [hfault] at ht; cases ht

/-! ### Reset (R119) -/

theorem resetCount_toNat {p : Config.Params} (h : p.wf = true) :
    (resetCount p).toNat = if p.nInit ≤ p.nMax then p.nInit else 0 := by
  obtain ⟨-, ⟨-, hInit⟩, -⟩ := params_wf_iff.mp h
  unfold resetCount
  split
  · exact Nat.mod_eq_of_lt (by omega)
  · rfl

theorem resetCount_le {p : Config.Params} (h : p.wf = true) : (resetCount p).toNat ≤ p.nMax := by
  rw [resetCount_toNat h]
  split
  case isTrue hle => exact hle
  case isFalse => exact Nat.zero_le _

theorem getD_replicate_false (n k : Nat) : (List.replicate n false).getD k false = false := by
  rw [List.getD_eq_getElem?_getD, List.getElem?_replicate]
  split <;> rfl

/-- The registers and outputs of R119 are sound, with any canonical buffer below 3N. -/
theorem sound_resetOf {p : Config.Params} {m : Memory} (h : p.wf = true) (hwf : Memory.wf m = true)
    (hrange : ∀ c ∈ m, c.1 < 3 * (resetCount p).toNat) : Sound { State.resetOf p with buf := m } where
  params := h
  count := resetCount_le h
  selection := by
    obtain ⟨-, -, -, -, -, -, htx⟩ := params_wf_iff.mp h
    exact htx
  bufferForm := hwf
  bufferRange := hrange
  spiWidth := List.length_replicate
  oeWidth := List.length_replicate
  outWidth := List.length_replicate

theorem outputsMatch_resetOf (p : Config.Params) : OutputsMatch (State.resetOf p) :=
  ⟨fun k => getD_replicate_false p.pSpi k, fun k => getD_replicate_false p.pPins k⟩

theorem resetDone_inv {s : State} (h : s.cfg.wf = true) : Inv s.resetDone :=
  inv_reshell (s := State.resetOf s.cfg) (e := .idle) (sound_resetOf h rfl (by simp)) (by simp [Engine.pending]) rfl
    (outputsMatch_resetOf s.cfg) _ _ _ _

/-- The clear of a buffer writes the buffer only. -/
theorem runOps_zeroWrites {count : Nat} {s : State} (h : count ≤ s.n.toNat) :
    runOps (zeroWrites count) s =
      .ok { s with buf := Memory.writes s.buf ((List.range (3 * count)).map fun a => (a, 0)) } := by
  rw [zeroWrites_eq]
  refine runOps_writeOps fun w hw => ?_
  obtain ⟨a, ha, rfl⟩ := List.mem_map.mp hw
  exact (List.mem_range.mp ha).trans_le (Nat.mul_le_mul_left 3 h)

theorem resetEdge_inv {s : State} (h : Inv s) : Inv s.resetEdge := by
  have hsound := sound_resetOf h.sound.params (m := Memory.below s.buf (3 * (resetCount s.cfg).toNat))
    (Memory.below_wf _ h.sound.bufferForm) fun _ hc => (Memory.mem_below hc).2
  refine inv_reshell (e := s.resetEdge.engine) hsound (fun op hop => ?_) (runOps_zeroWrites le_rfl)
    ((outputsMatch_resetOf s.cfg).of_same rfl rfl rfl rfl) _ _ _ _
  obtain ⟨a, v, rfl⟩ := mem_zeroWrites hop
  rfl

theorem react_inv {inp : Input} {s t : State} (h : Inv s) (ht : react inp s = .next t) : Inv t := by
  cases inp with
  | command w =>
    cases hb : s.busy with
    | true => rw [react_command_busy hb] at ht; cases ht; exact h
    | false =>
      rw [react_command_ready hb] at ht
      exact runWord_inv (s := s.portsQuiet) (h.reshell _ _ _ _) hb ht
  | accept w =>
    cases hb : s.busy with
    | true => rw [react_accept_busy hb] at ht; cases ht; exact h
    | false =>
      rw [react_accept_ready hb] at ht; cases ht
      exact startWord_inv w (s := s.portsQuiet) (h.reshell _ _ _ _) hb
  | tick b => exact tick_inv h ht
  | reset => cases ht; exact resetDone_inv h.sound.params
  | rst => cases ht; exact resetEdge_inv h

/-! ### The frame, byte by byte (R94 to R96) -/

theorem scale_toNat (x b : Byte) : (scale x b).toNat = Claims.scaled x b := by
  unfold scale Claims.scaled
  split
  case isTrue => rfl
  case isFalse =>
    have hx := x.isLt
    have hb := b.isLt
    have hlt : x.toNat * b.toNat / 256 < 256 := by
      have := Nat.mul_lt_mul'' hx hb
      omega
    rw [BitVec.toNat_ofNat, Nat.shiftRight_eq_div_pow]
    exact Nat.mod_eq_of_lt hlt

/-- In a list made of pieces of `m` elements, element `j` of piece `i` stands at `m * i + j`. -/
theorem getElem?_flatMap_const {α β : Type} {f : α → List β} {m : Nat} (hf : ∀ a, (f a).length = m) (l : List α)
    (i j : Nat) (hj : j < m) : (l.flatMap f)[m * i + j]? = l[i]?.bind fun a => (f a)[j]? := by
  induction l generalizing i with
  | nil => simp
  | cons a l ih =>
    cases i with
    | zero => simp [List.getElem?_append_left, hf, hj]
    | succ i =>
      have hle : (f a).length ≤ m * (i + 1) + j := by rw [hf, Nat.mul_succ]; omega
      have hsub : m * (i + 1) + j - m = m * i + j := by rw [Nat.mul_succ]; omega
      rw [List.flatMap_cons, List.getElem?_append_right hle, hf, hsub, ih]
      rfl

theorem length_flatMap_const {α β : Type} {f : α → List β} {m : Nat} (hf : ∀ a, (f a).length = m) (l : List α) :
    (l.flatMap f).length = m * l.length := by
  simp [List.length_flatMap, hf, Nat.mul_comm]

/-- The frame of a strip that is not empty: start bytes, pixels, end bytes (R95). -/
theorem frame_of_pos {s : State} (h : 0 < s.n.toNat) :
    frame s = List.replicate 4 0 ++ ((List.range s.n.toNat).flatMap (pixelFrame s) ++
      List.replicate (endMarkerLength s.n.toNat) 0xFF) := by
  have hn : s.n ≠ 0 := fun h0 => by rw [h0] at h; exact absurd h (by decide)
  rw [frame, if_neg hn, List.append_assoc]

theorem length_pixels (s : State) : ((List.range s.n.toNat).flatMap (pixelFrame s)).length = 4 * s.n.toNat := by
  rw [length_flatMap_const (m := 4) (fun _ => rfl), List.length_range]

theorem frame_length {s : State} (h : 0 < s.n.toNat) :
    (frame s).length = 4 + 4 * s.n.toNat + (s.n.toNat + 15) / 16 := by
  rw [frame_of_pos h, List.length_append, List.length_append, length_pixels]
  simp [endMarkerLength, Nat.add_assoc]

theorem frame_start {s : State} (h : 0 < s.n.toNat) {j : Nat} (hj : j < 4) : (frame s)[j]? = some 0 := by
  rw [frame_of_pos h, List.getElem?_append_left (by simpa using hj), List.getElem?_replicate, if_pos hj]

/-- Byte `k` of pixel `i` in the frame. -/
theorem frame_pixel {s : State} {i k : Nat} (hi : i < s.n.toNat) (hk : k < 4) :
    (frame s)[4 + 4 * i + k]? = (pixelFrame s i)[k]? := by
  have hstart : 4 + 4 * i + k - (List.replicate 4 (0 : Byte)).length = 4 * i + k := by
    rw [List.length_replicate]; omega
  rw [frame_of_pos (by omega), List.getElem?_append_right (by rw [List.length_replicate]; omega), hstart,
    List.getElem?_append_left (by rw [length_pixels]; omega), getElem?_flatMap_const (m := 4) (fun _ => rfl) _ _ _ hk,
    List.getElem?_range hi]
  rfl

theorem frame_end {s : State} (h : 0 < s.n.toNat) {j : Nat} (hj : j < (s.n.toNat + 15) / 16) :
    (frame s)[4 + 4 * s.n.toNat + j]? = some 0xFF := by
  have hstart : 4 + 4 * s.n.toNat + j - (List.replicate 4 (0 : Byte)).length = 4 * s.n.toNat + j := by
    rw [List.length_replicate]; omega
  rw [frame_of_pos h, List.getElem?_append_right (by rw [List.length_replicate]; omega), hstart,
    List.getElem?_append_right (by rw [length_pixels]; omega), length_pixels, Nat.add_sub_cancel_left,
    endMarkerLength, List.getElem?_replicate, if_pos hj]

/-- The three data bytes of a pixel, scaled (R82, R96). -/
theorem pixelFrame_data (s : State) (i : Nat) {j : Nat} (hj : j < 3) :
    (pixelFrame s i)[1 + j]? = some (scale (s.byte (3 * i + j)) s.bri) := by
  match j, hj with
  | 0, _ => rfl
  | 1, _ => rfl
  | 2, _ => rfl

/-- The frame SHOW sends is the frame of R95 and R96, place by place. -/
theorem frame_bytes (s : State) : Claims.FrameBytes s (frame s) := by
  constructor
  · intro h
    rw [frame, if_pos (BitVec.eq_of_toNat_eq h)]
  · intro h
    refine ⟨frame_length h, fun j hj => frame_start h hj, fun i hi => ⟨?marker, fun j hj => ?data⟩,
      fun j hj => frame_end h hj⟩
    case marker => exact frame_pixel (k := 0) hi (by decide)
    case data => exact ⟨_, (frame_pixel hi (by omega)).trans (pixelFrame_data s i hj), scale_toNat _ _⟩

/-! ### A word in the middle of its effects (R27, R28) -/

/-- A word accepted and `j` ticks later, with the peripheral ready at each or none to wait for: its first `j` effects are
done and the others are to come. -/
theorem run_accept_take {s : State} {w : Word} {j : Nat} {readies : List Bool} (rest : List Input) (hinv : Inv s)
    (hb : s.busy = false) (hj : j ≤ (planWord w s).ops.length) (hlen : readies.length = j)
    (hg : (∀ x ∈ readies, x = true) ∨ ∀ op ∈ (planWord w s).ops, op.waits = false) :
    ∃ u, runOps ((planWord w s).ops.take j) s = .ok u ∧
      Sys2Proof.core.run (j + 1) { s with inputs := .accept w :: (readies.map .tick ++ rest) } =
        .next (u.inFlight s (.running (flightOf w s j ((planWord w s).ops.drop j))) rest) := by
  obtain ⟨v, hv⟩ := runOps_planWord_ok w hinv.sound.selection
  have hsplit : (planWord w s).ops = (planWord w s).ops.take j ++ (planWord w s).ops.drop j :=
    (List.take_append_drop ..).symm
  rw [hsplit] at hv
  obtain ⟨u, hu, -⟩ := runOps_prefix_ok hv
  have htake : ((planWord w s).ops.take j).length = j := List.length_take_of_le hj
  have hrun := run_accept_ticks (rest := rest) hinv.sound.params hb hsplit hu (hlen.trans htake.symm)
    (hg.imp_right fun h op hop => h op (List.mem_of_mem_take hop))
  rw [htake] at hrun
  exact ⟨u, hu, hrun⟩

/-! ### A SHOW in the middle (R28, R98, R99) -/

theorem deliver_eq (t : Transport) (x : Byte) : deliver t x = Claims.delivered t x := by
  cases t <;> rfl

/-- The events of the whole frame on the selected transport (R98, R99, R103). -/
def showEvents (s : State) : List OutEvent := (frame s).flatMap (deliver s.tx)

theorem planWord_show {s : State} {w : Word} (hw : decode w = .ok .showFrame) (ha : s.active = true) :
    (planWord w s).ops = (showEvents s).map .drive ∧ (planWord w s).isShow = true := by
  have hp : planWord w s = planShow s := by simp only [planWord, hw]; rfl
  rw [hp, planShow_ops, if_pos ha]
  exact ⟨rfl, rfl⟩

/-- `t` is a SHOW accepted at `s`, its first `m` events done and traced, the others to come, and `rest` the inputs. -/
structure ShowAt (s : State) (m : Nat) (rest : List Input) (t : State) : Prop where
  cfg : t.cfg = s.cfg
  tx : t.tx = s.tx
  inputs : t.inputs = rest
  wire : t.wire = s.wire ++ ((showEvents s).take m).map .out
  flight : ∃ a, t.engine = .running ⟨true, m, ((showEvents s).drop m).map .drive, a⟩

theorem runOps_drives_tx {es : List OutEvent} {s u : State} (h : runOps (es.map .drive) s = .ok u) : u.tx = s.tx := by
  have hkeeps := runOps_keeps_or (P := False) State.tx (ops := es.map .drive) (fun op hop v t ht => by
    refine (applyOp_changedBy ht).tx.imp_right ?_
    rintro ⟨t, rfl⟩
    simp at hop) h
  exact hkeeps.resolve_right id

/-- A SHOW accepted and `m` ticks later, with the peripheral ready at each or none to wait for. -/
theorem run_show {s : State} {w : Word} {m : Nat} {readies : List Bool} {rest : List Input} (hinv : Inv s)
    (hb : s.busy = false) (ha : s.active = true) (hw : decode w = .ok .showFrame) (hm : m ≤ (showEvents s).length)
    (hlen : readies.length = m) (hg : (∀ x ∈ readies, x = true) ∨ ∀ e ∈ showEvents s, (MicroOp.drive e).waits = false) :
    ∃ t, Sys2Proof.core.run (m + 1) { s with inputs := .accept w :: (readies.map .tick ++ rest) } = .next t ∧
      ShowAt s m rest t := by
  obtain ⟨hops, hshow⟩ := planWord_show hw ha
  obtain ⟨u, hu, hrun⟩ := run_accept_take (w := w) rest hinv hb (by rwa [hops, List.length_map]) hlen
    (by rwa [hops, List.forall_mem_map])
  rw [hops, ← List.map_take] at hu
  rw [hops, ← List.map_drop] at hrun
  have huf := runOps_frame hu
  have hwire : u.wire = s.wire ++ ((showEvents s).take m).map .out := by rw [huf, opEvents_map_drive]
  have hcfg : u.cfg = s.cfg := by rw [huf]
  exact ⟨_, hrun, hcfg, (runOps_drives_tx hu :), rfl, hwire, (planWord w s).answer, by rw [← hshow]; rfl⟩

theorem ShowAt.busy {s t : State} {m : Nat} {rest : List Input} (h : ShowAt s m rest t) : t.busy = true := by
  obtain ⟨a, he⟩ := h.flight
  simp [State.busy, he]

theorem ShowAt.framePos_hw {s t : State} {m : Nat} {rest : List Input} {k : Byte} (h : ShowAt s m rest t)
    (htx : s.tx = .hw k) : t.framePos = some ⟨m, 7, 0⟩ := by
  obtain ⟨a, he⟩ := h.flight
  simp [State.framePos, he, h.tx, htx]

theorem ShowAt.framePos_sw {s t : State} {m : Nat} {rest : List Input} {d c : Byte} (h : ShowAt s m rest t)
    (htx : s.tx = .sw d c) : t.framePos = some ⟨m / 24, 7 - m % 24 / 3, m % 3⟩ := by
  obtain ⟨a, he⟩ := h.flight
  simp [State.framePos, he, h.tx, htx]

/-- On a peripheral the events are the bytes handed to it, and each waits for it (R98). -/
theorem showEvents_hw {s : State} {k : Byte} (htx : s.tx = .hw k) : showEvents s = (frame s).map (.spiByte k) := by
  rw [showEvents, htx]
  exact List.flatMap_pure_eq_map _ _

/-- On two pads every event is a pad write, which does not wait (R99). -/
theorem waits_of_mem_showEvents {s : State} {d c : Byte} {e : OutEvent} (htx : s.tx = .sw d c)
    (he : e ∈ showEvents s) : (MicroOp.drive e).waits = false := by
  rw [showEvents, htx] at he
  obtain ⟨x, -, hx⟩ := List.mem_flatMap.mp he
  obtain ⟨p, v, rfl⟩ := mem_deliver_sw hx
  rfl

theorem length_showEvents_sw {s : State} {d c : Byte} (htx : s.tx = .sw d c) :
    (showEvents s).length = 24 * (frame s).length := by
  rw [showEvents, htx]
  exact length_flatMap_const (m := 24) (fun _ => rfl) _

/-- While a byte is next, the port presents it, and a tick without `spi_tx_ready` changes nothing (R33, R98). -/
theorem step_unready {s t : State} {j : Nat} {k x : Byte} (h : ShowAt s j [.tick false] t) (hw : s.cfg.wf = true)
    (htx : s.tx = .hw k) (hx : (frame s)[j]? = some x) :
    t.spiTx = some (k, x) ∧ step t = .next { t with inputs := [] } := by
  obtain ⟨a, he⟩ := h.flight
  obtain ⟨hlt, hget⟩ := List.getElem?_eq_some_iff.mp hx
  have hdrop : ((showEvents s).drop j).map MicroOp.drive =
      .drive (.spiByte k x) :: ((frame s).drop (j + 1)).map (fun y => .drive (.spiByte k y)) := by
    rw [showEvents_hw htx, ← List.map_drop, List.map_map, List.drop_eq_getElem_cons hlt, hget]
    rfl
  rw [hdrop] at he
  refine ⟨by simp [State.spiTx, he, Engine.pending], ?_⟩
  have hwt : t.cfg.wf = true := by rw [h.cfg]; exact hw
  exact (step_input hwt h.inputs).trans (tick_wait (s := { t with inputs := [] }) he rfl rfl)

/-! ### Acceptance and the response port (R27, R31, R32) -/

theorem cmdReady_of_busy {s : State} (h : s.busy = true) : s.cmdReady = false := by
  simp [State.cmdReady, h]

theorem rspPort_zero_of_none {s : State} (h : s.rspPort = none) : s.rspValid = 0 ∧ s.rspStatus = 0 ∧ s.rspData = 0 := by
  simp [State.rspValid, State.rspStatus, State.rspData, h]

/-- A tick of an idle block takes the response off the port (R32). -/
theorem step_idle_tick {s : State} {b : Bool} {rest : List Input} (hw : s.cfg.wf = true) (he : s.engine = .idle)
    (hin : s.inputs = .tick b :: rest) : step s = .next (State.portsQuiet { s with inputs := rest }) :=
  (step_input hw hin).trans (tick_idle he)

/-! ### The values of reset (R119) -/

/-- A state with the registers and outputs of a reset, and nothing of a SHOW in flight, shows the values of R119. -/
theorem registersReset_of_frame {p : Config.Params} {t : State} (h : p.wf = true)
    (ht : t = { State.resetOf p with buf := t.buf, engine := t.engine, wire := t.wire, rsp := t.rsp, inputs := t.inputs })
    (hshow : t.framePos = none) (hserial : t.spiTx = none) : Claims.RegistersReset p t where
  spiOpen k := by rw [ht]; exact getD_replicate_false p.pSpi k
  padOe k := by rw [ht]; exact getD_replicate_false p.pPins k
  padOut k := by rw [ht]; exact getD_replicate_false p.pPins k
  active := by rw [ht]; rfl
  tx := by rw [ht]; rfl
  n := by rw [ht]; exact resetCount_toNat h
  bri := by rw [ht]; rfl
  showEngine := hshow
  rspPort := rspPort_zero_of_none (by rw [ht]; rfl)
  spiTx := hserial

/-- The clear of the buffer hands no byte to a peripheral. -/
theorem resetEdge_spiTx (s : State) : s.resetEdge.spiTx = none := by
  cases hops : zeroWrites (resetCount s.cfg).toNat with
  | nil => simp [State.spiTx, Engine.pending, hops]
  | cons op ops =>
    obtain ⟨a, v, rfl⟩ := mem_zeroWrites (hops ▸ List.mem_cons_self : op ∈ zeroWrites (resetCount s.cfg).toNat)
    simp [State.spiTx, Engine.pending, hops]

/-- A reset, at either level, leaves the values of R119 and gives no response. -/
theorem step_reset {s : State} {inp : Input} {rest : List Input} (hw : s.cfg.wf = true) (hin : s.inputs = inp :: rest)
    (hinp : inp = .rst ∨ inp = .reset) :
    ∃ t, step s = .next t ∧ t.rsp = s.rsp ∧ Claims.RegistersReset s.cfg t := by
  rcases hinp with rfl | rfl
  · exact ⟨_, step_input hw hin, rfl, registersReset_of_frame hw rfl rfl (resetEdge_spiTx _)⟩
  · exact ⟨_, step_input hw hin, rfl, registersReset_of_frame hw rfl rfl rfl⟩

theorem resetNext_iff (s : State) : Claims.resetNext s.inputs ↔ s.rst = true := by
  cases hin : s.inputs with
  | nil => simp [Claims.resetNext, rst_nil hin]
  | cons inp rest => cases inp <;> simp [Claims.resetNext, rst_cons hin, Input.rstLevel]

end Sys2Proof.Machine

namespace Sys2Proof.Claims

open Sys2Proof Sys2Proof.Machine

/-- Settles O28: a command's step is its plan's, and each part of the state changes by an effect of its own kind, which
only the commands that write that part may have. -/
theorem writersOfRegistersAndOutputs : Obligations.WritersOfRegistersAndOutputs := by
  intro i s t h
  rw [exec_eq_plan] at h
  obtain ⟨u, hu, rfl⟩ := Plan.run_next h
  have hframe := runOps_frame hu
  exact ⟨(plan_n hu :), (plan_bri hu :), (plan_tx hu :), (plan_active hu :), (plan_switched hu :), (plan_levels hu :),
    by rw [hframe]; rfl, by rw [hframe]; rfl, by rw [hframe]; rfl⟩

/-- Settles O47: a command's effects are legal and end with exactly its selection's outputs on, so the invariant holds at
acceptance; each effect done leaves the same end; and a reset starts from it anew. -/
theorem stepKeepsInv : Obligations.StepKeepsInv := by
  intro s t h ht
  obtain ⟨-, ⟨-, rfl⟩ | ⟨inp, rest, -, hr⟩⟩ := step_cases ht
  · exact h
  · exact react_inv (s := { s with inputs := rest }) (h.reshell _ _ _ _) hr

/-- Settles O41: `j` effects done of a SHOW on a peripheral are the first `j` bytes of the frame, and the next waits. -/
theorem showPresentsEachByte : Obligations.ShowPresentsEachByte := by
  intro s k w hinv hb htx ha _ hw
  refine ⟨frame s, frame_bytes s, fun j x hx => ?_⟩
  have hj : j ≤ (showEvents s).length := by
    rw [showEvents_hw htx, List.length_map]
    exact (List.getElem?_eq_some_iff.mp hx).1.le
  obtain ⟨t, hrun, hat⟩ := run_show (readies := List.replicate j true) (rest := [.tick false]) hinv hb ha hw hj
    List.length_replicate (.inl fun y hy => List.eq_of_mem_replicate hy)
  rw [List.map_replicate] at hrun
  obtain ⟨hport, hstep⟩ := step_unready hat hinv.sound.params htx hx
  refine ⟨t, _, hrun, hport, hat.framePos_hw htx, hat.busy, ?_, hstep, rfl⟩
  rw [hat.wire, showEvents_hw htx, ← List.map_take, List.map_map]
  rfl

/-- Settles O42: on two pads a byte is 24 writes, three for each bit, so the count of writes done names the next. -/
theorem showPositionOnPads : Obligations.ShowPositionOnPads := by
  intro s d c w hinv hb htx ha _ hw
  refine ⟨frame s, frame_bytes s, fun i bit write x hx hbit hwrite => ?_⟩
  obtain ⟨hi, -⟩ := List.getElem?_eq_some_iff.mp hx
  obtain ⟨t, hrun, hat⟩ := run_show (m := 24 * i + 3 * (7 - bit) + write)
    (readies := List.replicate (24 * i + 3 * (7 - bit) + write) false) (rest := []) hinv hb ha hw
    (by rw [length_showEvents_sw htx]; omega) List.length_replicate (.inr fun e he => waits_of_mem_showEvents htx he)
  rw [List.map_replicate, List.append_nil] at hrun
  have hpos : (⟨(24 * i + 3 * (7 - bit) + write) / 24, 7 - (24 * i + 3 * (7 - bit) + write) % 24 / 3,
      (24 * i + 3 * (7 - bit) + write) % 3⟩ : FramePos) = ⟨i, bit, write⟩ := by
    congr 1 <;> omega
  refine ⟨t, hrun, (hat.framePos_sw htx).trans (congrArg some hpos), hat.busy, ?_⟩
  rw [hat.wire, showEvents, funext (deliver_eq s.tx)]

/-- Settles O51: the effects of the word's plan are the cycles before its response, an idle tick the cycle after. -/
theorem responsePresentedOnce : Obligations.ResponsePresentedOnce := by
  intro s w hinv hb
  have hw := hinv.sound.params
  obtain ⟨u, hu⟩ := runOps_planWord_ok w hinv.sound.selection
  have hanswered := run_accept_to_response (readies := List.replicate ((planWord w s).ops.length + 1) true)
    (rest := [.tick true]) hw hb hu List.length_replicate (.inl fun x hx => List.eq_of_mem_replicate hx)
  rw [List.map_replicate, ← List.replicate_succ'] at hanswered
  refine ⟨(planWord w s).ops.length, (planWord w s).answer, fun k hk1 hk2 => ?_, ⟨_, hanswered, ?_⟩, ?_⟩
  · obtain ⟨j, rfl⟩ : ∃ j, k = j + 1 := ⟨k - 1, by omega⟩
    obtain ⟨v, -, hrun⟩ := run_accept_take (w := w) (readies := List.replicate j true)
      (List.replicate ((planWord w s).ops.length + 2 - j) (.tick true)) hinv hb (by omega) List.length_replicate
      (.inl fun x hx => List.eq_of_mem_replicate hx)
    rw [List.map_replicate, List.replicate_append_replicate, Nat.add_sub_cancel' (by omega)] at hrun
    exact ⟨_, hrun, rfl, cmdReady_of_busy rfl, rfl, rfl, rfl, rfl⟩
  · exact ⟨rfl, rfl, rfl, rfl, rfl⟩
  · have hwu : u.cfg.wf = true := by rw [runOps_frame hu]; exact hw
    have hquiet := step_idle_tick (b := true) (rest := [])
      (s := (u.inFlight s .idle [.tick true]).respond (planWord w s).answer) hwu rfl rfl
    exact ⟨_, (run_add (b := 1) hanswered).trans ((run_one _).trans hquiet), rfl, rfl, rfl, rfl, rfl⟩

/-- Settles O9: the input is taken, the block is not busy, and the word runs as the command it decodes to. -/
theorem stepRunsTheDecodedCommand : Obligations.StepRunsTheDecodedCommand := by
  intro s w rest i hw hready hin hdec
  have hb : State.busy { s with inputs := rest } = false := busy_of_cmdReady (s := s) hready
  rw [step_input hw hin, react_command_ready hb]
  exact runWord_ok hdec

/-- Settles O12: at both levels a word presented while BUSY is taken off the list and nothing else. -/
theorem busyAcceptsNothing : Obligations.BusyAcceptsNothing := by
  intro s w rest hw hb hin
  have hb' : State.busy { s with inputs := rest } = true := hb
  rcases hin with hin | hin
  · rw [step_input hw hin, react_command_busy hb']
  · rw [step_input hw hin, react_accept_busy hb']

/-- Settles O55: `cmd_ready` is read off BUSY and the next input, which also decide what the step does with a word. -/
theorem cmdReadyIsNotBusyAndNotRst : Obligations.CmdReadyIsNotBusyAndNotRst := by
  refine ⟨fun s => ?_, fun s w rest hw hin => ⟨fun hready => ?_, fun hready => ?_⟩, fun s rest hw hin => ?_⟩
  · rw [cmdReady_iff, resetNext_iff, Bool.not_eq_true]
  · have hb : State.busy { s with inputs := rest } = false := busy_of_cmdReady (s := s) hready
    exact ⟨_, (step_input hw hin).trans (react_accept_ready hb), rfl, rfl, rfl, rfl⟩
  · have hb : s.busy = true := by simpa [State.cmdReady, rst_cons hin, Input.rstLevel] using hready
    exact (step_input hw hin).trans (react_accept_busy (s := { s with inputs := rest }) hb)
  · rcases hin with hin | hin
    · exact ⟨by simp [State.cmdReady, rst_cons hin, Input.rstLevel], step_reset hw hin (.inl rfl)⟩
    · exact ⟨by simp [State.cmdReady, rst_cons hin, Input.rstLevel], step_reset hw hin (.inr rfl)⟩

end Sys2Proof.Claims

namespace Sys2Proof.Machine

/-! ### The buffer is written by its own effects only (R37) -/

/-- The buffer changes by a byte written or by N set, which cuts it (R24), and by no other effect. -/
theorem applyOp_buf {op : MicroOp} {s t : State} (h : applyOp op s = .ok t) :
    t.buf = s.buf ∨ (∃ n, op = .setN n) ∨ ∃ a v, op = .memWrite a v := by
  cases op with
  | setN n => exact .inr (.inl ⟨n, rfl⟩)
  | memWrite a v => exact .inr (.inr ⟨a, v, rfl⟩)
  | setBri b => cases h; exact .inl rfl
  | setTx u => cases h; exact .inl rfl
  | setActive => cases h; exact .inl rfl
  | drive e => exact .inl (by rw [drive_frame h])

theorem plan_buf {i : Instr} {s u : State} (h : runOps (plan i s).ops s = .ok u) : u.buf = s.buf ∨ WritesBuffer i := by
  refine plan_keeps_or h State.buf (fun _ _ _ ht => applyOp_buf ht) ?_
  rintro _ (⟨n, rfl⟩ | ⟨a, v, rfl⟩) hi
  · obtain ⟨hresize, -⟩ := hi
    exact .inr (.inr (.inr (.inr hresize)))
  · exact hi

/-! ### From the invariant nothing stops (R44, R109) -/

theorem runWord_goes_on (w : Word) {s : State} (h : Inv s) : ∃ t, runWord w s = .next t := by
  obtain ⟨u, hu⟩ := runOps_planWord_ok w h.sound.selection
  exact ⟨_, (runWord_eq_plan w s).trans (Plan.run_of_ok hu)⟩

/-- The effects to come of a state with the invariant end without a fault, so the next of them is done. -/
theorem tick_goes_on (b : Bool) {s : State} (h : Inv s) : ∃ t, tick b s = .next t := by
  rcases tick_cases b s with
    ⟨-, hq⟩ | ⟨f, he, ⟨-, hend⟩ | ⟨op, ops, hp, ⟨-, -, hwait⟩ | ⟨u, -, hdone⟩ | ⟨e, herr, -⟩⟩⟩
  · exact ⟨_, hq⟩
  · exact ⟨_, hend⟩
  · exact ⟨_, hwait⟩
  · exact ⟨_, hdone⟩
  · obtain ⟨t, ht, -⟩ := h.settles
    have hpend : s.engine.pending = op :: ops := by rw [he]; exact hp
    rw [hpend] at ht
    obtain ⟨v, hv, -⟩ := runOps_cons_inv ht
    rw [herr] at hv
    cases hv

theorem react_goes_on (inp : Input) {s : State} (h : Inv s) : ∃ t, react inp s = .next t := by
  cases inp with
  | command w =>
    cases hb : s.busy with
    | true => exact ⟨_, react_command_busy hb⟩
    | false =>
      rw [react_command_ready hb]
      exact runWord_goes_on w (s := s.portsQuiet) (h.reshell _ _ _ _)
  | accept w =>
    cases hb : s.busy with
    | true => exact ⟨_, react_accept_busy hb⟩
    | false => exact ⟨_, react_accept_ready hb⟩
  | tick b => exact tick_goes_on b h
  | reset => exact ⟨_, rfl⟩
  | rst => exact ⟨_, rfl⟩

end Sys2Proof.Machine

namespace Sys2Proof.Claims

open Sys2Proof Sys2Proof.Machine

/-- Settles O27: a command's step is its plan's, and only the plans of the commands listed hold an effect that changes the
buffer. -/
theorem onlyPixelCommandsWriteTheBuffer : Obligations.OnlyPixelCommandsWriteTheBuffer := by
  intro i s t h
  rw [exec_eq_plan] at h
  obtain ⟨u, hu, rfl⟩ := Plan.run_next h
  simpa only [WritesBuffer, or_assoc, respond_buf] using (plan_buf hu).symm

/-- Settles O48: TXSEL is legal, so a word's plan runs to its end, and the effects already in flight end by the invariant. -/
theorem stepAlwaysGoesOn : Obligations.StepAlwaysGoesOn := by
  intro s h
  have hw := h.sound.params
  cases hin : s.inputs with
  | nil => exact ⟨s, step_idle hw hin⟩
  | cons inp rest =>
    rw [step_input hw hin]
    exact react_goes_on inp (s := { s with inputs := rest }) (h.reshell _ _ _ _)

end Sys2Proof.Claims

namespace Sys2Proof

/-! ### At most one row matches a word, and decoding is that row's command (R54, R55) -/

/-- Every mask covers the opcode, so a word that matches a row has the row's opcode (R55). -/
theorem opcode_of_match {row : OpRow} (hrow : row ∈ opTable) {w : Word} (h : w &&& row.mask = row.pattern) :
    fOpc w = fOpc row.pattern := by
  have hmask : ∀ r ∈ opTable, fOpc r.mask = BitVec.allOnes 8 := by decide
  rw [← h]
  exact (extract_and_ones (hmask row hrow)).symm

theorem opcodes_distinct : opTable.Pairwise fun a b => fOpc a.pattern ≠ fOpc b.pattern := by decide

theorem rows_disjoint :
    opTable.Pairwise fun a b => ∀ w : Word, ¬ (w &&& a.mask = a.pattern ∧ w &&& b.mask = b.pattern) :=
  opcodes_distinct.imp_of_mem fun ha hb hne _ hw =>
    hne ((opcode_of_match ha hw.1).symm.trans (opcode_of_match hb hw.2))

theorem row_unique {a b : OpRow} (ha : a ∈ opTable) (hb : b ∈ opTable) {w : Word} (hwa : w &&& a.mask = a.pattern)
    (hwb : w &&& b.mask = b.pattern) : a = b := by
  by_contra hne
  have : Std.Symm fun a b : OpRow => ∀ w : Word, ¬ (w &&& a.mask = a.pattern ∧ w &&& b.mask = b.pattern) :=
    ⟨fun _ _ h w hw => h w hw.symm⟩
  exact rows_disjoint.forall ha hb hne w ⟨hwa, hwb⟩

@[simp] theorem OpRow.covers_eq_true {row : OpRow} {w : Word} : row.covers w = true ↔ w &&& row.mask = row.pattern := by
  simp [OpRow.covers]

/-- What decoding can answer, said once: the command of a row that matches, or an error if none does. -/
theorem decode_cases (w : Word) :
    (∃ row ∈ opTable, w &&& row.mask = row.pattern ∧ decode w = .ok (row.build w)) ∨
    ((∀ row ∈ opTable, w &&& row.mask ≠ row.pattern) ∧ ∃ e, decode w = .error e) := by
  cases hf : opTable.find? (fun row => row.covers w) with
  | some row =>
    have hcov := OpRow.covers_eq_true.mp (List.find?_some (p := fun row : OpRow => row.covers w) hf)
    exact .inl ⟨row, List.mem_of_find?_eq_some hf, hcov, by simp [decode, hf]⟩
  | none =>
    refine .inr ⟨fun row hrow hw => List.find?_eq_none.mp hf row hrow (OpRow.covers_eq_true.mpr hw), ?_⟩
    simp only [decode, hf]
    split
    · exact ⟨_, rfl⟩
    · exact ⟨_, rfl⟩

theorem decode_of_match {row : OpRow} (hrow : row ∈ opTable) {w : Word} (h : w &&& row.mask = row.pattern) :
    decode w = .ok (row.build w) := by
  rcases decode_cases w with ⟨row', hrow', h', hd⟩ | ⟨hnone, -⟩
  · rwa [row_unique hrow hrow' h h']
  · exact absurd h (hnone row hrow)

theorem match_of_decode {w : Word} {i : Instr} (h : decode w = .ok i) :
    ∃ row ∈ opTable, w &&& row.mask = row.pattern ∧ row.build w = i := by
  rcases decode_cases w with ⟨row, hrow, hw, hd⟩ | ⟨-, e, he⟩
  · exact ⟨row, hrow, hw, Except.ok.inj (hd.symm.trans h)⟩
  · rw [he] at h
    cases h

/-- A word is legal exactly if it matches a row (R55). -/
theorem decodes_iff_match (w : Word) : (∃ i, decode w = .ok i) ↔ ∃ row ∈ opTable, w &&& row.mask = row.pattern := by
  constructor
  · rintro ⟨i, h⟩
    obtain ⟨row, hrow, hw, -⟩ := match_of_decode h
    exact ⟨row, hrow, hw⟩
  · rintro ⟨row, hrow, hw⟩
    exact ⟨row.build w, decode_of_match hrow hw⟩

/-! ### Decoding the word of a command (R52 to R55) -/

/-- A command whose word matches a row that builds the command from that word. -/
theorem decode_encode_of_row {i : Instr} (n : Fin 16)
    (hmatch : encode i &&& (opTable.get n).mask = (opTable.get n).pattern)
    (hbuild : (opTable.get n).build (encode i) = i) :
    decode (encode i) = .ok i :=
  (decode_of_match (opTable.get_mem n) hmatch).trans (congrArg Except.ok hbuild)

open Laws in
theorem decode_encode (i : Instr) : decode (encode i) = .ok i := by
  cases i with
  | color r g b =>
    obtain ⟨hr, hg, hb⟩ := FieldsRead.color r g b
    exact decode_encode_of_row 0 (OpcodeRow.color r g b) (congr (congrArg₂ Instr.color hr hg) hb)
  | colorhsv hue sat val =>
    obtain ⟨hhue, hsat, hval⟩ := FieldsRead.colorhsv hue sat val
    exact decode_encode_of_row 1 (OpcodeRow.colorhsv hue sat val) (congr (congrArg₂ Instr.colorhsv hhue hsat) hval)
  | gamma32 c => exact decode_encode_of_row 2 (OpcodeRow.gamma32 c) (congrArg Instr.gamma32 (FieldsRead.gamma32 c))
  | resize len => exact decode_encode_of_row 3 (OpcodeRow.resize len) (congrArg Instr.resize (FieldsRead.resize len))
  | setpix idx r g b =>
    obtain ⟨hidx, hr, hg, hb⟩ := FieldsRead.setpix idx r g b
    exact decode_encode_of_row 4 (OpcodeRow.setpix idx r g b) (congr (congr (congrArg₂ Instr.setpix hidx hr) hg) hb)
  | setpixc idx c =>
    obtain ⟨hidx, hc⟩ := FieldsRead.setpixc idx c
    exact decode_encode_of_row 5 (OpcodeRow.setpixc idx c) (congrArg₂ Instr.setpixc hidx hc)
  | getpix idx => exact decode_encode_of_row 6 (OpcodeRow.getpix idx) (congrArg Instr.getpix (FieldsRead.getpix idx))
  | fill c first count =>
    obtain ⟨hc, hfirst, hcount⟩ := FieldsRead.fill c first count
    exact decode_encode_of_row 7 (OpcodeRow.fill c first count) (congr (congrArg₂ Instr.fill hc hfirst) hcount)
  | clear => exact decode_encode_of_row 8 OpcodeRow.clear rfl
  | numpix => exact decode_encode_of_row 9 OpcodeRow.numpix rfl
  | setbri b => exact decode_encode_of_row 10 (OpcodeRow.setbri b) (congrArg Instr.setbri (FieldsRead.setbri b))
  | getbri => exact decode_encode_of_row 11 OpcodeRow.getbri rfl
  | beginTx => exact decode_encode_of_row 12 OpcodeRow.beginTx rfl
  | settxhw per =>
    exact decode_encode_of_row 13 (OpcodeRow.settxhw per) (congrArg Instr.settxhw (FieldsRead.settxhw per))
  | settxsw dpin cpin =>
    obtain ⟨hd, hc⟩ := FieldsRead.settxsw dpin cpin
    exact decode_encode_of_row 14 (OpcodeRow.settxsw dpin cpin) (congrArg₂ Instr.settxsw hd hc)
  | showFrame => exact decode_encode_of_row 15 OpcodeRow.showFrame rfl

/-! ### Encoding the command of a word (R52, R54) -/

/-- Two neighbouring ranges of bits are one range. -/
theorem extract_append {w : Word} (s l : Nat) {m : Nat} {hi : BitVec m} {lo : BitVec l}
    (hhi : w.extractLsb' (s + l) m = hi) (hlo : w.extractLsb' s l = lo) : w.extractLsb' s (m + l) = hi ++ lo := by
  rw [← hhi, ← hlo, BitVec.extractLsb'_append_extractLsb'_eq_extractLsb' rfl]

/-- A word that matches a row is the row's opcode, its reserved bits, all 0, and its fields, which the row's command keeps. -/
theorem encode_build {row : OpRow} (hrow : row ∈ opTable) {w : Word} (h : w &&& row.mask = row.pattern) :
    encode (row.build w) = w := by
  obtain ⟨hcolor, hcolorhsv, hgamma32, hresize, hsetpix, hsetpixc, hgetpix, hfill, hclear, hnumpix, hsetbri, hgetbri,
    hbegin, hsettxhw, hsettxsw, hshow⟩ := covers_iff w
  suffices hw : w.extractLsb' 0 64 = encode (row.build w) from hw.symm.trans BitVec.extractLsb'_eq_self
  simp only [opTable, List.mem_cons, List.not_mem_nil, or_false] at hrow
  rcases hrow with rfl | rfl | rfl | rfl | rfl | rfl | rfl | rfl | rfl | rfl | rfl | rfl | rfl | rfl | rfl | rfl
  · obtain ⟨ho, hz⟩ := hcolor.mp h
    exact extract_append 0 8 (extract_append 8 8 (extract_append 16 8 (extract_append 24 32 ho hz) rfl) rfl) rfl
  · obtain ⟨ho, hz⟩ := hcolorhsv.mp h
    exact extract_append 0 8 (extract_append 8 8 (extract_append 16 16 (extract_append 32 24 ho hz) rfl) rfl) rfl
  · obtain ⟨ho, hz⟩ := hgamma32.mp h
    exact extract_append 0 32 (extract_append 32 24 ho hz) rfl
  · obtain ⟨ho, hz⟩ := hresize.mp h
    exact extract_append 0 16 (extract_append 16 40 ho hz) rfl
  · obtain ⟨ho, hz⟩ := hsetpix.mp h
    exact extract_append 0 8 (extract_append 8 8 (extract_append 16 8 (extract_append 24 16
      (extract_append 40 16 ho rfl) hz) rfl) rfl) rfl
  · obtain ⟨ho, hz⟩ := hsetpixc.mp h
    exact extract_append 0 32 (extract_append 32 8 (extract_append 40 16 ho rfl) hz) rfl
  · obtain ⟨ho, hz⟩ := hgetpix.mp h
    exact extract_append 0 40 (extract_append 40 16 ho rfl) hz
  · obtain ⟨ho, -⟩ := hfill.mp h
    exact extract_append 0 24 (extract_append 24 16 (extract_append 40 16 ho rfl) rfl) rfl
  · obtain ⟨ho, hz⟩ := hclear.mp h
    exact extract_append 0 56 ho hz
  · obtain ⟨ho, hz⟩ := hnumpix.mp h
    exact extract_append 0 56 ho hz
  · obtain ⟨ho, hz⟩ := hsetbri.mp h
    exact extract_append 0 8 (extract_append 8 48 ho hz) rfl
  · obtain ⟨ho, hz⟩ := hgetbri.mp h
    exact extract_append 0 56 ho hz
  · obtain ⟨ho, hz⟩ := hbegin.mp h
    exact extract_append 0 56 ho hz
  · obtain ⟨ho, hz⟩ := hsettxhw.mp h
    exact extract_append 0 8 (extract_append 8 48 ho hz) rfl
  · obtain ⟨ho, hz⟩ := hsettxsw.mp h
    exact extract_append 0 8 (extract_append 8 8 (extract_append 16 40 ho hz) rfl) rfl
  · obtain ⟨ho, hz⟩ := hshow.mp h
    exact extract_append 0 56 ho hz

theorem encode_decode {w : Word} {i : Instr} (h : decode w = .ok i) : encode i = w := by
  obtain ⟨row, hrow, hw, rfl⟩ := match_of_decode h
  exact encode_build hrow hw

end Sys2Proof

namespace Sys2Proof.Machine

/-! ### A word that is no command (R56, R105) -/

theorem step_illegal {s : State} {w : Word} {rest : List Input} (hw : s.cfg.wf = true) (hready : s.cmdReady = true)
    (hin : s.inputs = .command w :: rest) (hdec : ¬ ∃ i, decode w = .ok i) :
    step s = .next (Claims.answered { s with inputs := rest } ⟨.illegal, 0⟩) := by
  have hb : State.busy { s with inputs := rest } = false := busy_of_cmdReady (s := s) hready
  cases hd : decode w with
  | ok i => exact absurd ⟨i, hd⟩ hdec
  | error e =>
    rw [step_input hw hin, react_command_ready hb, runWord_error hd]
    rfl

end Sys2Proof.Machine

namespace Sys2Proof.Claims

open Sys2Proof Sys2Proof.Machine

/-- Settles O1: the command's word matches the row whose mask and match value are its own, and its fields are the operands. -/
theorem decodeOfEncode : Obligations.DecodeOfEncode := decode_encode

/-- Settles O2: the row the word matches fixes its opcode and its reserved bits, and every other bit is in an operand. -/
theorem encodeOfDecode : Obligations.EncodeOfDecode := fun _ _ => encode_decode

/-- Settles O3: to decode is to match a row, and to match a row is to have its opcode and 0 in its reserved bits. -/
theorem legalWordsExactly : Obligations.LegalWordsExactly := by
  refine ⟨fun s w rest hw hready hin hdec => step_illegal hw hready hin hdec, fun w => ?_⟩
  obtain ⟨hcolor, hcolorhsv, hgamma32, hresize, hsetpix, hsetpixc, hgetpix, hfill, hclear, hnumpix, hsetbri, hgetbri,
    hbegin, hsettxhw, hsettxsw, hshow⟩ := covers_iff w
  have hfill' : w &&& 0xFF00000000000000 = 0x1400000000000000 ↔ w.extractLsb' 56 8 = 0x14 :=
    hfill.trans (and_iff_left (BitVec.eq_of_zero_length rfl))
  rw [decodes_iff_match, ← hcolor, ← hcolorhsv, ← hgamma32, ← hresize, ← hsetpix, ← hsetpixc, ← hgetpix, ← hfill',
    ← hclear, ← hnumpix, ← hsetbri, ← hgetbri, ← hbegin, ← hsettxhw, ← hsettxsw, ← hshow]
  simp only [opTable, List.exists_mem_cons_iff, List.not_mem_nil, false_and, exists_false, or_false]

/-- Settles O4: every mask covers the opcode, and no two rows have the same. -/
theorem decodeFollowsTheOneRow : Obligations.DecodeFollowsTheOneRow := by
  refine ⟨rows_disjoint, fun row hrow w h => decode_of_match hrow h, fun s w rest hw hready hin hnone => ?_⟩
  refine step_illegal hw hready hin fun hdec => ?_
  obtain ⟨row, hrow, h⟩ := (decodes_iff_match w).mp hdec
  exact hnone row hrow h

end Sys2Proof.Claims

namespace Sys2Proof

/-! ### A line and its operands (R58, R59) -/

@[simp] theorem operandsFit_cons (v w : Nat) (vs ws : List Nat) :
    operandsFit (v :: vs) (w :: ws) = true ↔ v < 2 ^ w ∧ operandsFit vs ws = true := by
  simp [operandsFit]

theorem operandsFit_of_forall₂ {vs ws : List Nat} (h : List.Forall₂ (fun v w => v < 2 ^ w) vs ws) :
    operandsFit vs ws = true := by
  induction h with
  | nil => rfl
  | cons hlt _ ih => exact (operandsFit_cons _ _ _ _).mpr ⟨hlt, ih⟩

/-- Operands that fit are below the widths of their fields, place by place. -/
theorem lt_of_operandsFit {vs ws : List Nat} (h : operandsFit vs ws = true) {j v w : Nat} (hv : vs[j]? = some v)
    (hw : ws[j]? = some w) : v < 2 ^ w := by
  induction vs generalizing ws j with
  | nil => simp at hv
  | cons v' vs ih =>
    cases ws with
    | nil => simp at hw
    | cons w' ws =>
      obtain ⟨hlt, hfit⟩ := (operandsFit_cons v' w' vs ws).mp h
      cases j with
      | zero =>
        cases hv
        cases hw
        exact hlt
      | succ j => exact ih hfit hv hw

end Sys2Proof

namespace Sys2Proof.Machine

/-- A line with every operand given and in its field is the command of its operands (R58). -/
theorem assemble_full {m : Mnemonic} {vs : List Nat} {i : Instr}
    (hfit : List.Forall₂ (fun v w => v < 2 ^ w) vs m.operandWidths) (hbuild : buildCommand m vs = some i) :
    assemble ⟨m, vs⟩ = some i := by
  have hwf : AsmLine.wf ⟨m, vs⟩ = true := by simp [AsmLine.wf, hfit.length_eq, operandsFit_of_forall₂ hfit]
  have hall : allOperands ⟨m, vs⟩ = vs := by simp [allOperands, hfit.length_eq]
  rw [assemble, if_pos hwf, hall, hbuild]

/-- Lines of one mnemonic that are well formed alike and have the same operands, those left out included, assemble alike (R59). -/
theorem assemble_congr {m : Mnemonic} {vs us : List Nat} (hwf : AsmLine.wf ⟨m, vs⟩ = AsmLine.wf ⟨m, us⟩)
    (hall : allOperands ⟨m, vs⟩ = allOperands ⟨m, us⟩) : assemble ⟨m, vs⟩ = assemble ⟨m, us⟩ := by
  rw [assemble, assemble, hwf, hall]

end Sys2Proof.Machine

namespace Sys2Proof.Claims

open Sys2Proof Sys2Proof.Machine

/-- Settles O5: the five legal words are those of the commands R60 names; the opcode of 0 is in no row, and bit 0 is reserved in
GETPIX. -/
theorem wordsOfTheSpecDecode : Obligations.WordsOfTheSpecDecode :=
  ⟨decode_encode (.setpix 5 0x12 0x34 0x56), decode_encode (.fill 0xFFFFFF 8 5),
    decode_encode (.colorhsv 32768 255 255), decode_encode (.settxsw 3 4), decode_encode .showFrame, by decide, by decide⟩

/-- Settles O6: a line with operands left out has the operands of its expansion, and the defaults fit their fields; RENDER and
SHOW take no operands. -/
theorem pseudoInstructionsExpand : Obligations.PseudoInstructionsExpand := fun _ _ =>
  ⟨assemble_congr rfl rfl, assemble_congr rfl rfl, assemble_congr rfl rfl, assemble_congr rfl rfl, rfl⟩

/-- Settles O7: an operand is below the width of its own field, so the line is its command's, and a field keeps its value. -/
theorem assemblerForms : Obligations.AssemblerForms := by
  refine ⟨fun r g b => ?_, fun h s v => ?_, fun c => ?_, fun n => ?_, fun i r g b => ?_, fun i c => ?_, fun i => ?_,
    fun c first count => ?_, rfl, rfl, fun b => ?_, rfl, rfl, fun k => ?_, fun d c => ?_, rfl⟩
  · exact assemble_full (.cons r.isLt (.cons g.isLt (.cons b.isLt .nil))) (by simp [buildCommand])
  · exact assemble_full (.cons h.isLt (.cons s.isLt (.cons v.isLt .nil))) (by simp [buildCommand])
  · exact assemble_full (.cons c.isLt .nil) (by simp [buildCommand])
  · exact assemble_full (.cons n.isLt .nil) (by simp [buildCommand])
  · exact assemble_full (.cons i.isLt (.cons r.isLt (.cons g.isLt (.cons b.isLt .nil)))) (by simp [buildCommand])
  · exact assemble_full (.cons i.isLt (.cons c.isLt .nil)) (by simp [buildCommand])
  · exact assemble_full (.cons i.isLt .nil) (by simp [buildCommand])
  · have hlow : BitVec.ofNat 24 c.toNat = c.extractLsb' 0 24 :=
      (BitVec.ofNat_toNat 24 c).trans (BitVec.setWidth_eq_extractLsb' (by decide))
    exact assemble_full (.cons c.isLt (.cons first.isLt (.cons count.isLt .nil))) (by simp [buildCommand, ← hlow])
  · exact assemble_full (.cons b.isLt .nil) (by simp [buildCommand])
  · exact assemble_full (.cons k.isLt .nil) (by simp [buildCommand])
  · exact assemble_full (.cons d.isLt (.cons c.isLt .nil)) (by simp [buildCommand])

/-- Settles O8: a well-formed line has every operand below the width of its field. -/
theorem assemblerRefusesWideOperands : Obligations.AssemblerRefusesWideOperands := by
  intro l j v w hv hw hwide
  refine if_neg fun hwf => ?_
  obtain ⟨-, hfit⟩ := (Bool.and_eq_true _ _).mp hwf
  exact absurd (lt_of_operandsFit hfit hv hw) hwide.not_gt

end Sys2Proof.Claims

namespace Sys2Proof

/-- A row is determined by its opcode (R55). -/
theorem row_of_opcode {a b : OpRow} (ha : a ∈ opTable) (hb : b ∈ opTable) (h : fOpc a.pattern = fOpc b.pattern) : a = b :=
  List.inj_on_of_nodup_map (List.pairwise_map.mpr opcodes_distinct) ha hb h

/-- A word with a row's opcode matches that row or none. -/
theorem decode_error_of_opcode {row : OpRow} (hrow : row ∈ opTable) {w : Word} (ho : fOpc w = fOpc row.pattern)
    (h : w &&& row.mask ≠ row.pattern) : ∃ e, decode w = .error e := by
  rcases decode_cases w with ⟨row', hrow', h', -⟩ | ⟨-, herr⟩
  · rw [row_of_opcode hrow' hrow ((opcode_of_match hrow' h').symm.trans ho)] at h'
    exact absurd h' h
  · exact herr

end Sys2Proof

namespace Sys2Proof.Claims

open Sys2Proof Sys2Proof.Machine

/-! ### The words of one row, and a command that only answers (R13, R55) -/

/-- The words of a row's opcode: the row's command where the reserved range is 0, and otherwise no command. -/
theorem commandWords_of_row (n : Fin 16) {opc : Byte} {start len : Nat} (hopc : fOpc (opTable.get n).pattern = opc)
    (hmatch : ∀ w : Word, w &&& (opTable.get n).mask = (opTable.get n).pattern ↔
      w.extractLsb' 56 8 = opc ∧ w.extractLsb' start len = 0) :
    CommandWords opc (fun w => w.extractLsb' start len == 0) (opTable.get n).build := by
  refine fun w ho => ⟨fun hz => ?_, fun hz => ?_⟩
  · exact decode_of_match (opTable.get_mem n) ((hmatch w).mpr ⟨ho, eq_of_beq hz⟩)
  · exact decode_error_of_opcode (opTable.get_mem n) (ho.trans hopc.symm)
      fun h => ne_of_beq_false hz ((hmatch w).mp h).2

/-- A command whose plan has no effect changes nothing but the response. -/
theorem exec_answering {i : Instr} {s : State} {d : Colour} (h : plan i s = Plan.answering d) :
    exec i s = .next (answered s ⟨.ok, d⟩) := by
  rw [exec_eq_plan, h]
  exact Plan.run_of_ok (runOps_nil s)

theorem exec_color (r g b : Byte) (s : State) : exec (.color r g b) s = .next (answered s ⟨.ok, pack r g b⟩) :=
  exec_answering rfl

theorem exec_colorhsv (hue : Half) (sat val : Byte) (s : State) :
    exec (.colorhsv hue sat val) s = .next (answered s ⟨.ok, hsvColour hue sat val⟩) :=
  exec_answering rfl

theorem exec_gamma32 (c : Colour) (s : State) :
    exec (.gamma32 c) s = .next (answered s ⟨.ok, gammaColour s.cfg c⟩) :=
  exec_answering rfl

/-! ### Packed colours as numbers (R61, R62) -/

theorem append_toNat {m n : Nat} (x : BitVec m) (y : BitVec n) : (x ++ y).toNat = x.toNat * 2 ^ n + y.toNat := by
  rw [BitVec.toNat_append, ← Nat.shiftLeft_add_eq_or_of_lt y.isLt, Nat.shiftLeft_eq]

/-- `pack` is its three bytes one after the other, with zeros above. -/
theorem pack_eq_append (r g b : Byte) : pack r g b = (r ++ g ++ b).setWidth 32 := by
  rw [pack, BitVec.setWidth_append_append_eq_shiftLeft_setWidth_or]

theorem pack_toNat (r g b : Byte) : (pack r g b).toNat = packed r g b := by
  rw [pack_eq_append, BitVec.toNat_setWidth_of_le (by decide), append_toNat, append_toNat, packed]
  omega

theorem unpackR_toNat (c : Colour) : (unpackR c).toNat = c.toNat / 65536 % 256 := by
  simp [unpackR, Nat.shiftRight_eq_div_pow]

theorem unpackG_toNat (c : Colour) : (unpackG c).toNat = c.toNat / 256 % 256 := by
  simp [unpackG, Nat.shiftRight_eq_div_pow]

theorem unpackB_toNat (c : Colour) : (unpackB c).toNat = c.toNat % 256 := by
  simp [unpackB]

/-- Settles O18: as numbers, packing is base 256 with the components as digits, and the mask keeps three digits. -/
theorem packUnpackInverse : Obligations.PackUnpackInverse := by
  refine ⟨fun r g b => ?_, fun c => ?_⟩
  · have hr := r.isLt
    have hg := g.isLt
    have hb := b.isLt
    refine ⟨BitVec.eq_of_toNat_eq ?_, BitVec.eq_of_toNat_eq ?_, BitVec.eq_of_toNat_eq ?_⟩
    · rw [unpackR_toNat, pack_toNat, packed]
      omega
    · rw [unpackG_toNat, pack_toNat, packed]
      omega
    · rw [unpackB_toNat, pack_toNat, packed]
      omega
  · have hmask : c.toNat &&& 0xFFFFFF = c.toNat % 2 ^ 24 := Nat.and_two_pow_sub_one_eq_mod c.toNat 24
    refine BitVec.eq_of_toNat_eq ?_
    rw [pack_toNat, packed, unpackR_toNat, unpackG_toNat, unpackB_toNat, BitVec.toNat_and]
    refine Eq.trans ?_ hmask.symm
    omega

/-- Settles O14: the word is its row's, and the answer is the packed colour as a number. -/
theorem colorResult : Obligations.ColorResult :=
  ⟨commandWords_of_row 0 rfl fun w => let ⟨hcolor, _⟩ := covers_iff w; hcolor,
    fun s r g b => ⟨pack r g b, pack_toNat r g b, exec_color r g b s⟩⟩

/-! ### COLORHSV (R65 to R69) -/

/-- The model's ramp is R66's, segment by segment. -/
theorem ramp_hexcone (h : Nat) : Ramp h (hexcone h).1 (hexcone h).2.1 (hexcone h).2.2 := by
  unfold hexcone
  split_ifs <;> unfold Ramp <;> dsimp only <;> omega

theorem Ramp.le {h r g b : Nat} (hramp : Ramp h r g b) (hh : h ≤ 1530) : r ≤ 255 ∧ g ≤ 255 ∧ b ≤ 255 := by
  unfold Ramp at hramp
  omega

theorem hueRemap_le (hue : Half) : hueRemap hue.toNat ≤ 1530 := by
  have := hue.isLt
  unfold hueRemap
  omega

/-- Red is centred on the rollover of the hue: the lowest hues are the first point of the ramp (R65). -/
theorem hueRemap_low {hue : Nat} (h : hue ≤ 21) : hueRemap hue = 0 := by
  unfold hueRemap
  omega

/-- The highest hues are the last point of the ramp, red again (R65). -/
theorem hueRemap_high {hue : Half} (h : 65515 ≤ hue.toNat) : hueRemap hue.toNat = 1530 := by
  have := hue.isLt
  unfold hueRemap
  omega

theorem satOnly_le {x sat : Nat} (hx : x ≤ 255) (hsat : sat ≤ 255) : satOnly x sat ≤ 255 := by
  have hmul : x * (sat + 1) ≤ 255 * (sat + 1) := Nat.mul_le_mul_right _ hx
  unfold satOnly
  omega

theorem satValued_le {x sat val : Nat} (hx : x ≤ 255) (hsat : sat ≤ 255) (hval : val ≤ 255) :
    satValued x sat val ≤ 255 := by
  have hmul : satOnly x sat * (val + 1) ≤ 255 * 256 := Nat.mul_le_mul (satOnly_le hx hsat) (by omega)
  unfold satValued
  omega

theorem satVal_eq (x sat val : Nat) : satVal x sat val = satValued x sat val := by
  simp [satVal, satValued, satOnly, Nat.shiftRight_eq_div_pow]

theorem hsvChannel_toNat {x : Nat} (hx : x ≤ 255) (sat val : Byte) :
    (hsvChannel x sat val).toNat = satValued x sat.toNat val.toNat := by
  have hle := satValued_le hx (Nat.le_of_lt_succ sat.isLt) (Nat.le_of_lt_succ val.isLt)
  rw [hsvChannel, satVal_eq, BitVec.toNat_ofNat, Nat.mod_eq_of_lt (Nat.lt_succ_of_le hle)]

/-- The raw components of a hue are a point of the ramp, and COLORHSV's number is R67 on each in its byte place (R69). -/
theorem hsvColour_of_ramp (hue : Half) : ∃ r g b, Ramp (hueRemap hue.toNat) r g b ∧ r ≤ 255 ∧ g ≤ 255 ∧ b ≤ 255 ∧
    ∀ sat val : Byte, (hsvColour hue sat val).toNat = satValued r sat.toNat val.toNat * 65536 +
      satValued g sat.toNat val.toNat * 256 + satValued b sat.toNat val.toNat := by
  have hramp := ramp_hexcone (hueRemap hue.toNat)
  obtain ⟨hr, hg, hb⟩ := hramp.le (hueRemap_le hue)
  refine ⟨_, _, _, hramp, hr, hg, hb, fun sat val => ?_⟩
  simp only [hsvColour, pack_toNat, packed, hsvChannel_toNat hr, hsvChannel_toNat hg, hsvChannel_toNat hb]

/-- Settles O15: the word is its row's, the raw components of the remapped hue are bytes, and R67 keeps them so. -/
theorem colorhsvResult : Obligations.ColorhsvResult := by
  refine ⟨commandWords_of_row 1 rfl fun w => let ⟨_, hcolorhsv, _⟩ := covers_iff w; hcolorhsv, fun s hue sat val => ?_⟩
  obtain ⟨r, g, b, hramp, hr, hg, hb, hd⟩ := hsvColour_of_ramp hue
  have hhue := hue.isLt
  have hsat : sat.toNat ≤ 255 := Nat.le_of_lt_succ sat.isLt
  have hval : val.toNat ≤ 255 := Nat.le_of_lt_succ val.isLt
  exact ⟨hsvColour hue sat val, hueRemap hue.toNat, r, g, b, rfl, by omega, hueRemap_le hue,
    hueRemap_low, hueRemap_high, hramp, hr, hg, hb, satOnly_le hr hsat, satOnly_le hg hsat, satOnly_le hb hsat,
    satValued_le hr hsat hval, satValued_le hg hsat hval, satValued_le hb hsat hval, hd sat val,
    exec_colorhsv hue sat val s⟩

/-- Saturation and value 255 leave a raw component as it is (R68). -/
theorem satValued_full (x : Nat) : satValued x 255 255 = x := by
  simp [satValued, satOnly]

/-- Without saturation every raw component gives the value (R68). -/
theorem satValued_grey {x : Nat} (hx : x ≤ 255) {val : Nat} (hval : val ≤ 255) : satValued x 0 val = val := by
  have hsat : satOnly x 0 = 255 := by
    unfold satOnly
    omega
  rw [satValued, hsat]
  omega

/-- The inner sum is at most 255, so value 0 gives 0 (R68). -/
theorem satValued_black {x sat : Nat} (hx : x ≤ 255) (hsat : sat ≤ 255) : satValued x sat 0 = 0 := by
  have := satOnly_le hx hsat
  unfold satValued
  omega

/-- Settles O16: at sat = val = 255, at sat = 0 and at val = 0 R67 gives the raw component, the value and 0. -/
theorem colorhsvConsequences : Obligations.ColorhsvConsequences := by
  intro s hue sat val
  obtain ⟨r, g, b, hramp, hr, hg, hb, hd⟩ := hsvColour_of_ramp hue
  have hsat : sat.toNat ≤ 255 := Nat.le_of_lt_succ sat.isLt
  have hval : val.toNat ≤ 255 := Nat.le_of_lt_succ val.isLt
  refine ⟨⟨_, r, g, b, hramp, ?_, exec_colorhsv hue 255 255 s⟩, ⟨_, ?_, exec_colorhsv hue 0 val s⟩, ?_⟩
  · simpa [satValued_full] using hd 255 255
  · simpa [satValued_grey, hr, hg, hb, hval, packed] using hd 0 val
  · have hblack : hsvColour hue sat 0 = 0 :=
      BitVec.eq_of_toNat_eq (by simpa [satValued_black, hr, hg, hb, hsat] using hd sat 0)
    rw [exec_colorhsv, hblack]

/-! ### GAMMA32 (R70, R72) -/

theorem gammaColour_byte (p : Config.Params) (c : Colour) {j : Nat} (hj : j < 4) :
    (gammaColour p c).extractLsb' (8 * j) 8 = gamma p (c.extractLsb' (8 * j) 8) := by
  unfold gammaColour
  interval_cases j
  · rw [BitVec.extractLsb'_append_eq_right]
  · rw [BitVec.extractLsb'_append_eq_of_le (by decide), BitVec.extractLsb'_append_eq_right]
  · rw [BitVec.extractLsb'_append_eq_of_le (by decide), BitVec.extractLsb'_append_eq_of_le (by decide),
      BitVec.extractLsb'_append_eq_right]
  · rw [BitVec.extractLsb'_append_eq_of_le (by decide), BitVec.extractLsb'_append_eq_of_le (by decide),
      BitVec.extractLsb'_append_eq_left]

theorem gamma_entry (p : Config.Params) (x : Byte) : p.gamma8[x.toNat]? = some (gamma p x) :=
  Vector.getElem?_eq_getElem x.isLt

/-- GAMMA32 depends on the table alone (R70). -/
theorem gammaColour_congr {p q : Config.Params} (h : p.gamma8 = q.gamma8) (c : Colour) :
    gammaColour p c = gammaColour q c := by
  simp only [gammaColour, gamma, h]

/-- R72's values under the default table of R71: it darkens at each application, and its ends stay. -/
theorem gammaColour_default {p : Config.Params} (h : p.gamma8 = Config.gammaDefault) :
    gammaColour p 0x80808080 = 0x2A2A2A2A ∧ gammaColour p 0x2A2A2A2A = 0x02020202 ∧ gammaColour p 0 = 0 ∧
    gammaColour p 0xFFFFFFFF = 0xFFFFFFFF := by
  simp only [gammaColour_congr (q := Config.vectorParams) h]
  decide

/-- Settles O17: each byte of the response is the table's entry at that byte of the operand. -/
theorem gamma32Result : Obligations.Gamma32Result := by
  refine ⟨commandWords_of_row 2 rfl fun w => let ⟨_, _, hgamma32, _⟩ := covers_iff w; hgamma32,
    fun s c => ⟨gammaColour s.cfg c, fun j hj => ?_, exec_gamma32 c s⟩, fun s h => ?_⟩
  · rw [gammaColour_byte s.cfg c hj, gamma_entry]
  · obtain ⟨hhalf, hdark, hzero, hfull⟩ := gammaColour_default h
    simp only [exec_gamma32, hhalf, hdark, hzero, hfull, and_self]

end Sys2Proof.Claims

namespace Sys2Proof.Machine

/-! ### What a read gives after the writes of pixels and of zeros (R35, R36) -/

/-- The byte writes of the pixels `is`, all of one colour. -/
def paintBytes (o : ChannelOrder) (is : List Nat) (r g b : Byte) : List (Nat × Byte) :=
  is.flatMap fun i => pixelBytes o i r g b

/-- The component in slot `j` is the one whose offset in the channel order is `j` (R36). -/
theorem slot_iff {o : ChannelOrder} {r g b v : Byte} {j : Nat} : (Claims.slots o r g b)[j]? = some v ↔
    j = offR o ∧ r = v ∨ j = offG o ∧ g = v ∨ j = offB o ∧ b = v := by
  match j with
  | 0 => cases o <;> simp [Claims.slots, offR, offG, offB]
  | 1 => cases o <;> simp [Claims.slots, offR, offG, offB]
  | 2 => cases o <;> simp [Claims.slots, offR, offG, offB]
  | j + 3 => cases o <;> simp [Claims.slots, offR, offG, offB]

/-- The bytes written for a pixel are the components of its slots. -/
theorem mem_pixelBytes {o : ChannelOrder} {i : Nat} {r g b : Byte} {w : Nat × Byte} :
    w ∈ pixelBytes o i r g b ↔ ∃ j, w.1 = 3 * i + j ∧ (Claims.slots o r g b)[j]? = some w.2 := by
  obtain ⟨a, v⟩ := w
  simp only [slot_iff, pixelBytes, byteAddr, List.mem_cons, List.not_mem_nil, or_false, Prod.mk.injEq]
  constructor
  · rintro (⟨ha, rfl⟩ | ⟨ha, rfl⟩ | ⟨ha, rfl⟩)
    · exact ⟨_, ha, .inl ⟨rfl, rfl⟩⟩
    · exact ⟨_, ha, .inr (.inl ⟨rfl, rfl⟩)⟩
    · exact ⟨_, ha, .inr (.inr ⟨rfl, rfl⟩)⟩
  · rintro ⟨j, ha, ⟨rfl, rfl⟩ | ⟨rfl, rfl⟩ | ⟨rfl, rfl⟩⟩
    · exact .inl ⟨ha, rfl⟩
    · exact .inr (.inl ⟨ha, rfl⟩)
    · exact .inr (.inr ⟨ha, rfl⟩)

theorem length_slots (o : ChannelOrder) (r g b : Byte) : (Claims.slots o r g b).length = 3 := by
  cases o <;> rfl

/-- A pixel holds the components if each slot's component is what its byte reads. -/
theorem pixelIs_iff_slots {s : State} {i : Nat} {r g b : Byte} :
    Claims.PixelIs s i r g b ↔ ∀ j v, (Claims.slots s.order r g b)[j]? = some v → s.byte (byteAddr i j) = v := by
  constructor
  · intro h j v hv
    have hj : j < 3 := length_slots s.order r g b ▸ (List.getElem?_eq_some_iff.mp hv).1
    exact Option.some.inj ((h j hj).symm.trans hv)
  · intro h j hj
    have hv := List.getElem?_eq_getElem (l := Claims.slots s.order r g b) (i := j) (by rwa [length_slots])
    exact hv.trans (congrArg some (h j _ hv).symm)

/-- A pixel holds the components that its bytes at the offsets of the channel order are (R35, R36). -/
theorem pixelIs_iff {s : State} {i : Nat} {r g b : Byte} :
    Claims.PixelIs s i r g b ↔ s.byte (byteAddr i (offR s.order)) = r ∧ s.byte (byteAddr i (offG s.order)) = g ∧
      s.byte (byteAddr i (offB s.order)) = b := by
  rw [pixelIs_iff_slots]
  constructor
  · intro h
    exact ⟨h _ r (slot_iff.mpr (.inl ⟨rfl, rfl⟩)), h _ g (slot_iff.mpr (.inr (.inl ⟨rfl, rfl⟩))),
      h _ b (slot_iff.mpr (.inr (.inr ⟨rfl, rfl⟩)))⟩
  · rintro ⟨hr, hg, hb⟩ j v hv
    rcases slot_iff.mp hv with ⟨rfl, rfl⟩ | ⟨rfl, rfl⟩ | ⟨rfl, rfl⟩
    · exact hr
    · exact hg
    · exact hb

theorem mem_paintBytes {o : ChannelOrder} {is : List Nat} {r g b : Byte} {w : Nat × Byte} :
    w ∈ paintBytes o is r g b ↔ ∃ i ∈ is, w ∈ pixelBytes o i r g b := List.mem_flatMap

/-- A slot of a painted pixel holds its component. -/
theorem read_paint_pixel {m : Memory} {o : ChannelOrder} {is : List Nat} {r g b v : Byte} {i j : Nat}
    (hm : Memory.wf m = true) (hi : i ∈ is) (hv : (Claims.slots o r g b)[j]? = some v) :
    Memory.read (Memory.writes m (paintBytes o is r g b)) (3 * i + j) = v := by
  have hwritten : (3 * i + j, v) ∈ paintBytes o is r g b :=
    mem_paintBytes.mpr ⟨i, hi, mem_pixelBytes.mpr ⟨j, rfl, hv⟩⟩
  refine Memory.read_writes_of_agree hm ⟨_, hwritten, rfl⟩ fun w hw ha => ?_
  obtain ⟨k, -, hk⟩ := mem_paintBytes.mp hw
  have hj : j < 3 := length_slots o r g b ▸ (List.getElem?_eq_some_iff.mp hv).1
  have hrange := pixelBytes_range hk
  obtain ⟨l, haddr, hval⟩ := mem_pixelBytes.mp hk
  obtain rfl : l = j := by omega
  exact Option.some.inj (hval.symm.trans hv)

/-- A byte of no painted pixel is as before. -/
theorem read_paint_other {o : ChannelOrder} {is : List Nat} {r g b : Byte} {a : Nat}
    (h : ∀ i ∈ is, a < 3 * i ∨ 3 * i + 3 ≤ a) (m : Memory) :
    Memory.read (Memory.writes m (paintBytes o is r g b)) a = Memory.read m a := by
  refine Memory.read_writes_other (fun w hw ha => ?_) m
  obtain ⟨i, hi, hwi⟩ := mem_paintBytes.mp hw
  have hrange := pixelBytes_range hwi
  have hout := h i hi
  omega

/-- The byte writes that zero the addresses below `count`. -/
def zeroBytes (count : Nat) : List (Nat × Byte) := (List.range count).map fun a => (a, 0)

theorem mem_zeroBytes {count : Nat} {w : Nat × Byte} : w ∈ zeroBytes count ↔ w.1 < count ∧ w.2 = 0 := by
  obtain ⟨a, v⟩ := w
  simp [zeroBytes, eq_comm (b := v)]

theorem read_zeroed {m : Memory} (hm : Memory.wf m = true) (count a : Nat) :
    Memory.read (Memory.writes m (zeroBytes count)) a = if a < count then 0 else Memory.read m a := by
  split
  case isTrue ha =>
    exact Memory.read_writes_of_agree hm ⟨(a, 0), mem_zeroBytes.mpr ⟨ha, rfl⟩, rfl⟩
      fun w hw _ => (mem_zeroBytes.mp hw).2
  case isFalse ha =>
    exact Memory.read_writes_other (fun w hw hwa => ha (hwa.symm.trans_lt (mem_zeroBytes.mp hw).1)) m

end Sys2Proof.Machine

namespace Sys2Proof.Claims

open Sys2Proof Sys2Proof.Machine

/-! ### A command that does effects and answers (OK, 0) (R13) -/

theorem exec_doing {i : Instr} {s u : State} {ops : List MicroOp} (h : plan i s = Plan.doing ops)
    (hu : runOps ops s = .ok u) : exec i s = .next (answered u ⟨.ok, 0⟩) := by
  rw [exec_eq_plan, h]
  exact Plan.run_of_ok hu

/-! ### The commands that paint pixels: SETPIX, SETPIXC, FILL (R75, R76, R79) -/

/-- `t` is `s` with the pixels `is` painted in one colour, answered (OK, 0), and nothing else changed. -/
structure Painted (s : State) (is : List Nat) (r g b : Byte) (t : State) : Prop where
  pixel : ∀ i ∈ is, PixelIs t i r g b
  other : ∀ a, (∀ i ∈ is, a < 3 * i ∨ 3 * i + 3 ≤ a) → t.byte a = s.byte a
  form : Memory.wf t.buf = true
  frame : t = answered { s with buf := t.buf } ⟨.ok, 0⟩

/-- A command whose effects are the writes of pixels of the strip paints them. -/
theorem exec_paints {i : Instr} {s : State} {is : List Nat} {r g b : Byte} (hbuf : Memory.wf s.buf = true)
    (his : ∀ k ∈ is, k < s.n.toNat)
    (h : plan i s = Plan.doing (is.flatMap fun k => pixelWrites s.order k r g b)) :
    ∃ t, exec i s = .next t ∧ Painted s is r g b t := by
  rw [flatMap_pixelWrites_eq] at h
  have hrange : ∀ w ∈ paintBytes s.order is r g b, w.1 < 3 * s.n.toNat := by
    intro w hw
    obtain ⟨k, hk, hwk⟩ := mem_paintBytes.mp hw
    have hlt := his k hk
    have hpix := pixelBytes_range hwk
    omega
  exact ⟨_, exec_doing h (runOps_writeOps hrange), {
    pixel := fun k hk => pixelIs_iff_slots.mpr fun j v => read_paint_pixel hbuf hk
    other := fun a ha => read_paint_other ha s.buf
    form := Memory.writes_wf _ hbuf
    frame := rfl }⟩

/-- The pixel SETPIX and SETPIXC write: the one of their index, or none outside the strip (R75). -/
def pixelAt (idx : Half) (s : State) : List Nat := if idx.toNat < s.n.toNat then [idx.toNat] else []

theorem mem_pixelAt {idx : Half} {s : State} {k : Nat} : k ∈ pixelAt idx s ↔ idx.toNat < s.n.toNat ∧ k = idx.toNat := by
  unfold pixelAt
  split <;> simp [*]

theorem exec_setpix {s : State} (hbuf : Memory.wf s.buf = true) (idx : Half) (r g b : Byte) :
    ∃ t, exec (.setpix idx r g b) s = .next t ∧ Painted s (pixelAt idx s) r g b t := by
  refine exec_paints hbuf (fun k hk => ?_) (congrArg Plan.doing ?_)
  · obtain ⟨hlt, rfl⟩ := mem_pixelAt.mp hk
    exact hlt
  · unfold pixelAt
    split <;> simp

/-- What SETPIX's painting means, inside the strip and outside. -/
theorem Painted.setpix {s t : State} {idx : Half} {r g b : Byte} (h : Painted s (pixelAt idx s) r g b t) :
    (idx.toNat < s.n.toNat → PixelIs t idx.toNat r g b) ∧
    (∀ a, a < 3 * idx.toNat ∨ 3 * idx.toNat + 3 ≤ a ∨ s.n.toNat ≤ idx.toNat → t.byte a = s.byte a) ∧
    t = answered { s with buf := t.buf } ⟨.ok, 0⟩ := by
  refine ⟨fun hlt => h.pixel _ (mem_pixelAt.mpr ⟨hlt, rfl⟩), fun a ha => h.other a fun k hk => ?_, h.frame⟩
  obtain ⟨hlt, rfl⟩ := mem_pixelAt.mp hk
  omega

/-- SETPIXC is SETPIX of the components of its colour (R76). -/
theorem exec_setpixc (idx : Half) (c : Colour) (s : State) :
    exec (.setpixc idx c) s = exec (.setpix idx (unpackR c) (unpackG c) (unpackB c)) s := rfl

/-- Settles O21: the word is its row's, and SETPIX paints the pixel of its index, if there is one. -/
theorem setpixResult : Obligations.SetpixResult := by
  refine ⟨commandWords_of_row 4 rfl fun w => let ⟨_, _, _, _, hsetpix, _⟩ := covers_iff w; hsetpix,
    fun s idx r g b hbuf => ?_⟩
  obtain ⟨t, ht, hpaint⟩ := exec_setpix hbuf idx r g b
  exact ⟨t, ht, hpaint.setpix⟩

/-- Settles O22: the word is its row's, and SETPIXC is SETPIX of the colour's components. -/
theorem setpixcResult : Obligations.SetpixcResult := by
  refine ⟨commandWords_of_row 5 rfl fun w => let ⟨_, _, _, _, _, hsetpixc, _⟩ := covers_iff w; hsetpixc,
    fun s idx c hbuf => ?_⟩
  obtain ⟨t, ht, hpaint⟩ := exec_setpix hbuf idx (unpackR c) (unpackG c) (unpackB c)
  exact ⟨t, (exec_setpixc idx c s).trans ht, ht, hpaint.setpix⟩

/-! ### GETPIX (R77, R78) -/

/-- GETPIX of a pixel that holds known components, where it is in the strip. -/
theorem exec_getpix {s : State} {idx : Half} {r g b : Byte} (h : idx.toNat < s.n.toNat → PixelIs s idx.toNat r g b) :
    exec (.getpix idx) s = .next (answered s ⟨.ok, if idx.toNat < s.n.toNat then pack r g b else 0⟩) := by
  refine exec_answering (congrArg Plan.answering (ite_congr rfl (fun hlt => ?_) fun _ => rfl))
  obtain ⟨hr, hg, hb⟩ := pixelIs_iff.mp (h hlt)
  rw [hr, hg, hb]

theorem ite_pack_toNat (p : Prop) [Decidable p] (r g b : Byte) :
    (if p then pack r g b else 0).toNat = if p then packed r g b else 0 := by
  split
  · exact pack_toNat r g b
  · rfl

/-- Settles O23: the word is its row's, and a pixel holds the components its bytes are. -/
theorem getpixResult : Obligations.GetpixResult := by
  refine ⟨commandWords_of_row 6 rfl fun w => let ⟨_, _, _, _, _, _, hgetpix, _⟩ := covers_iff w; hgetpix,
    fun s idx => ?_⟩
  have hpixel := pixelIs_iff (s := s) (i := idx.toNat).mpr ⟨rfl, rfl, rfl⟩
  exact ⟨_, _, _, _, hpixel, ite_pack_toNat _ _ _ _, exec_getpix fun _ => hpixel⟩

theorem execAll_cons_next {i : Instr} {is : List Instr} {s t : State} (h : exec i s = .next t) :
    execAll (i :: is) s = execAll is t := by
  simp only [execAll, h]

theorem exec_setbri (b : Byte) (s : State) : exec (.setbri b) s = .next (answered { s with bri := b } ⟨.ok, 0⟩) :=
  exec_doing rfl rfl

/-- SETBRIs, one after the other, leave the parameters, N and the buffer as they were. -/
theorem execAll_setbris (bris : List Byte) (is : List Instr) (s : State) :
    ∃ u, execAll (bris.map .setbri ++ is) s = execAll is u ∧ u.cfg = s.cfg ∧ u.n = s.n ∧ u.buf = s.buf := by
  induction bris generalizing s with
  | nil => exact ⟨s, rfl, rfl, rfl, rfl⟩
  | cons b bris ih =>
    obtain ⟨u, hu, hkept⟩ := ih (answered { s with bri := b } ⟨.ok, 0⟩)
    exact ⟨u, (execAll_cons_next (exec_setbri b s)).trans hu, hkept⟩

theorem PixelIs.of_same {s t : State} {i : Nat} {r g b : Byte} (h : PixelIs s i r g b) (hcfg : t.cfg = s.cfg)
    (hbuf : t.buf = s.buf) : PixelIs t i r g b := by
  simpa only [PixelIs, State.byte, hcfg, hbuf] using h

/-- Settles O24: SETPIX paints the pixel, SETBRI leaves it, and GETPIX answers it. -/
theorem getpixAfterSetpix : Obligations.GetpixAfterSetpix := by
  intro s idx r g b bris hbuf
  obtain ⟨t, ht, hpaint⟩ := exec_setpix hbuf idx r g b
  obtain ⟨hin, hout, hframe⟩ := hpaint.setpix
  obtain ⟨u, hu, hcfg, hn, hbytes⟩ := execAll_setbris bris [.getpix idx] t
  have hns : u.n = s.n := by rw [hn, hframe]; rfl
  have hget := exec_getpix (s := u) (idx := idx) fun hlt => (hin (hns ▸ hlt)).of_same hcfg hbytes
  refine ⟨_, _, (execAll_cons_next ht).trans (hu.trans (execAll_cons_next hget)), rfl, ?_, fun hge a => ?_⟩
  · rw [ite_pack_toNat, hns]
  · calc u.byte a = t.byte a := by rw [State.byte, hbytes, State.byte]
      _ = s.byte a := hout a (.inr (.inr hge))

/-! ### FILL (R79) -/

theorem fillEnd_le (first count n : Nat) : fillEnd first count n ≤ n := by
  unfold fillEnd
  split <;> omega

theorem mem_fillRange {first count n i : Nat} : i ∈ fillRange first count n ↔ first ≤ i ∧ i < fillEnd first count n := by
  have hend := fillEnd_le first count n
  unfold fillRange
  split
  · rw [List.mem_range'_1]
    omega
  · simp only [List.not_mem_nil, false_iff]
    omega

/-- A byte of FILL's 24-bit colour is the same byte of that colour as a packed one. -/
theorem extract_setWidth_colour (c : BitVec 24) {k : Nat} (hk : k + 8 ≤ 24) :
    (c.setWidth 32).extractLsb' k 8 = c.extractLsb' k 8 := by
  refine BitVec.eq_of_getLsbD_eq fun j hj => ?_
  have hlt : k + j < 32 := by omega
  simp [BitVec.getLsbD_extractLsb', hlt]

theorem exec_fill {s : State} (hbuf : Memory.wf s.buf = true) (c : BitVec 24) (first count : Half) :
    ∃ t, exec (.fill c first count) s = .next t ∧ Painted s (fillRange first.toNat count.toNat s.n.toNat)
      (c.extractLsb' 16 8) (c.extractLsb' 8 8) (c.extractLsb' 0 8) t := by
  refine exec_paints hbuf (fun k => lt_of_mem_fillRange) ?_
  rw [← extract_setWidth_colour c (k := 16) (by decide), ← extract_setWidth_colour c (k := 8) (by decide),
    ← extract_setWidth_colour c (k := 0) (by decide)]
  rfl

/-- Settles O25: no bit of the word is reserved, and FILL paints the pixels from FIRST up to its end. -/
theorem fillResult : Obligations.FillResult := by
  have hwords := commandWords_of_row 7 rfl fun w => let ⟨_, _, _, _, _, _, _, hfill, _⟩ := covers_iff w; hfill
  have hnone : (fun w : Word => w.extractLsb' 0 0 == 0) = fun _ => true :=
    funext fun w => beq_iff_eq.mpr (Subsingleton.elim _ _)
  refine ⟨hnone ▸ hwords, fun s c first count hbuf => ?_⟩
  obtain ⟨t, ht, hpaint⟩ := exec_fill hbuf c first count
  refine ⟨t, fillEnd first.toNat count.toNat s.n.toNat, ht, rfl, fun i hfirst hstop => ?_, fun a ha => ?_, hpaint.frame⟩
  · exact hpaint.pixel i (mem_fillRange.mpr ⟨hfirst, hstop⟩)
  · refine hpaint.other a fun i hi => ?_
    have hrange := mem_fillRange.mp hi
    omega

/-! ### CLEAR (R80) -/

theorem exec_clear (s : State) : exec .clear s =
    .next (answered { s with buf := Memory.writes s.buf (zeroBytes (3 * s.n.toNat)) } ⟨.ok, 0⟩) :=
  exec_doing rfl (runOps_zeroWrites le_rfl)

theorem PixelIs.byte_of_black {s : State} {i : Nat} (h : PixelIs s i 0 0 0) {j : Nat} (hj : j < 3) :
    s.byte (3 * i + j) = 0 := by
  have hslots : slots s.cfg.order 0 0 0 = List.replicate 3 0 := by cases s.cfg.order <;> rfl
  have hbyte := h j hj
  rw [hslots, List.getElem?_replicate, if_pos hj] at hbyte
  exact (Option.some.inj hbyte).symm

/-- FILL 0, 0, 0 zeroes the strip. -/
theorem Painted.byte_of_black {s t : State} (h : Painted s (fillRange 0 0 s.n.toNat) 0 0 0 t) (a : Nat) :
    t.byte a = if a < 3 * s.n.toNat then 0 else s.byte a := by
  have hmem : ∀ i, i ∈ fillRange 0 0 s.n.toNat ↔ i < s.n.toNat := fun i => by simp [mem_fillRange, fillEnd]
  split
  case isTrue ha =>
    have hpixel := h.pixel (a / 3) ((hmem _).mpr (by omega))
    rw [← Nat.div_add_mod a 3]
    exact hpixel.byte_of_black (Nat.mod_lt a (by decide))
  case isFalse ha =>
    refine h.other a fun i hi => ?_
    have hlt := (hmem i).mp hi
    omega

/-- Settles O26: the word is its row's, CLEAR and FILL 0, 0, 0 leave buffers that read alike, and a canonical buffer is
determined by what it reads. -/
theorem clearResult : Obligations.ClearResult := by
  refine ⟨commandWords_of_row 8 rfl fun w => let ⟨_, _, _, _, _, _, _, _, hclear, _⟩ := covers_iff w; hclear,
    fun s hbuf => ?_⟩
  obtain ⟨t, ht, hpaint⟩ := exec_fill hbuf 0 0 0
  have hbytes := Painted.byte_of_black hpaint
  have hsame : t.buf = Memory.writes s.buf (zeroBytes (3 * s.n.toNat)) :=
    Memory.ext_of_reads hpaint.form (Memory.writes_wf _ hbuf) fun a =>
      (hbytes a).trans (read_zeroed hbuf _ a).symm
  refine ⟨t, ?_, ht, hbytes, hpaint.frame⟩
  rw [exec_clear, ← hsame, ← hpaint.frame]

/-! ### RESIZE and NUMPIX (R73, R74) -/

/-- RESIZE above N_MAX leaves the empty strip (R73). -/
theorem exec_resize_fail {s : State} {len : Half} (h : s.cfg.nMax < len.toNat) :
    exec (.resize len) s = .next (answered { s with n := 0, buf := Memory.below s.buf 0 } ⟨.ok, 0⟩) :=
  exec_doing (if_pos h) rfl

/-- RESIZE within N_MAX sets N, which cuts the buffer, and zeroes what is left (R73). -/
theorem exec_resize_ok {s : State} {len : Half} (h : ¬ s.cfg.nMax < len.toNat) :
    exec (.resize len) s = .next (answered { s with
      n := len
      buf := Memory.writes (Memory.below s.buf (3 * len.toNat)) (zeroBytes (3 * len.toNat)) } ⟨.ok, 0⟩) :=
  exec_doing (if_neg h)
    ((runOps_cons_ok rfl).trans
      (runOps_zeroWrites (s := { s with n := len, buf := Memory.below s.buf (3 * len.toNat) }) le_rfl))

/-- Settles O19: the word is its row's, the bytes from 3N on are cut off and those below are zeroed. -/
theorem resizeResult : Obligations.ResizeResult := by
  refine ⟨commandWords_of_row 3 rfl fun w => let ⟨_, _, _, hresize, _⟩ := covers_iff w; hresize,
    fun s len hbuf => ?_⟩
  by_cases hlen : s.cfg.nMax < len.toNat
  · refine ⟨_, exec_resize_fail hlen, (if_pos hlen).symm, fun a => ?_, rfl⟩
    exact Memory.read_below s.buf 0 a
  · refine ⟨_, exec_resize_ok hlen, (if_neg hlen).symm, fun a => ?_, rfl⟩
    refine (read_zeroed (Memory.below_wf _ hbuf) _ a).trans ?_
    rw [Memory.read_below, ite_eq_left_iff]
    exact fun ha => if_neg ha

theorem exec_numpix (s : State) : exec .numpix s = .next (answered s ⟨.ok, s.n.setWidth 32⟩) := exec_answering rfl

/-- Settles O20: the word is its row's, the answer is N zero-extended, and a failed RESIZE leaves N at 0. -/
theorem numpixResult : Obligations.NumpixResult := by
  refine ⟨commandWords_of_row 9 rfl fun w => let ⟨_, _, _, _, _, _, _, _, _, hnumpix, _⟩ := covers_iff w; hnumpix,
    fun s => ?_, fun s len hlen => ?_⟩
  · have hn : (s.n.setWidth 32).toNat = s.n.toNat := BitVec.toNat_setWidth_of_le (by decide)
    exact ⟨_, hn, hn.trans_le, exec_numpix s⟩
  · exact ⟨_, (execAll_cons_next (exec_resize_fail hlen)).trans (execAll_cons_next (exec_numpix _)), rfl⟩

end Sys2Proof.Claims

namespace Sys2Proof.Claims

open Sys2Proof Sys2Proof.Machine

/-! ### The scale rule (R82, R84) -/

theorem scale_zero (x : Byte) : scale x 0 = x := if_pos rfl

theorem scale_of_ne_zero (x : Byte) {b : Byte} (hb : b ≠ 0) : (scale x b).toNat = x.toNat * b.toNat / 256 := by
  rw [scale_toNat, scaled, if_neg hb]

/-- Settles O29: the multiplier 256 of b = 0 cancels the division. -/
theorem scaleIsMultiplyAndShift : Obligations.ScaleIsMultiplyAndShift := by
  refine fun x b => ⟨?_, fun hb => hb ▸ scale_zero x, scale_of_ne_zero x⟩
  by_cases hb : b = 0
  · rw [if_pos hb, hb, scale_zero, Nat.mul_div_cancel _ (by decide)]
  · rw [if_neg hb, scale_of_ne_zero x hb]

theorem scale_le (x b : Byte) : (scale x b).toNat ≤ x.toNat := by
  by_cases hb : b = 0
  · rw [hb, scale_zero]
  · rw [scale_of_ne_zero x hb]
    exact Nat.div_le_of_le_mul (Nat.mul_comm _ _ ▸ Nat.mul_le_mul_right _ b.isLt.le)

/-- Where both levels are scaled, `scale` grows with the value and with the brightness. -/
theorem scale_mono {x y b c : Byte} (hb : b ≠ 0) (hxy : x.toNat ≤ y.toNat) (hbc : b.toNat ≤ c.toNat) :
    (scale x b).toNat ≤ (scale y c).toNat := by
  have hc : c ≠ 0 := by
    rintro rfl
    exact hb (BitVec.eq_of_toNat_eq (Nat.le_zero.mp hbc))
  rw [scale_of_ne_zero x hb, scale_of_ne_zero y hc]
  exact Nat.div_le_div_right (Nat.mul_le_mul hxy hbc)

/-- Settles O30: the listed values are arithmetic on the product, and `scale_le` and `scale_mono` are the bounds. -/
theorem scaleConsequences : Obligations.ScaleConsequences := by
  refine ⟨fun x => ?_, fun x b => ⟨?_, scale_le x b⟩, fun x y b hb hxy => scale_mono hb hxy le_rfl,
    fun x b c hb hbc => scale_mono hb le_rfl hbc⟩
  · have hx := x.isLt
    have hone : (scale x 1).toNat = x.toNat * 1 / 256 := scale_of_ne_zero x (by decide)
    have hfull : (scale x 255).toNat = x.toNat * 255 / 256 := scale_of_ne_zero x (by decide)
    have hhalf : (scale x 128).toNat = x.toNat * 128 / 256 := scale_of_ne_zero x (by decide)
    refine ⟨scale_zero x, BitVec.eq_of_toNat_eq ?_, ?_, ?_⟩
    · rw [hone, Nat.mul_one, Nat.div_eq_of_lt hx]
      rfl
    · omega
    · omega
  · exact BitVec.eq_of_toNat_eq (Nat.le_zero.mp (scale_le 0 b))

/-! ### SETBRI and GETBRI (R85, R86) -/

/-- Settles O31: the word is its row's, and the command's one effect sets BRI. -/
theorem setbriResult : Obligations.SetbriResult :=
  ⟨commandWords_of_row 10 rfl fun w => let ⟨_, _, _, _, _, _, _, _, _, _, hsetbri, _⟩ := covers_iff w; hsetbri,
    fun s b => exec_setbri b s⟩

theorem exec_getbri (s : State) : exec .getbri s = .next (answered s ⟨.ok, s.bri.setWidth 32⟩) := exec_answering rfl

/-- Settles O32: the word is its row's, and the answer is BRI zero-extended, which SETBRI sets and reset puts at 0. -/
theorem getbriResult : Obligations.GetbriResult := by
  have hwide : ∀ b : Byte, (b.setWidth 32).toNat = b.toNat := fun b => BitVec.toNat_setWidth_of_le (by decide)
  have hwords := commandWords_of_row 11 rfl fun w =>
    let ⟨_, _, _, _, _, _, _, _, _, _, _, hgetbri, _⟩ := covers_iff w; hgetbri
  refine ⟨hwords, fun s => ⟨_, hwide s.bri, exec_getbri s⟩, fun s b => ?_, fun p => exec_getbri (State.resetOf p)⟩
  exact ⟨_, _, (execAll_cons_next (exec_setbri b s)).trans (execAll_cons_next (exec_getbri _)), rfl, hwide b⟩

end Sys2Proof.Claims

namespace Sys2Proof.Machine

/-! ### The outputs of a selection, by name and by value (R22) -/

theorem usesSpi_iff {t : Transport} {k : Nat} : usesSpi t k = true ↔ Claims.namesSpi t k := by
  cases t <;> simp [usesSpi, Claims.namesSpi]

theorem usesPad_iff {t : Transport} {p : Nat} : usesPad t p = true ↔ Claims.namesPad t p := by
  cases t with
  | hw k => simp [usesPad, Claims.namesPad]
  | sw d c =>
    simp only [usesPad, Bool.or_eq_true, beq_iff_eq, Claims.namesPad, Transport.sw.injEq]
    exact ⟨fun h => ⟨d, c, ⟨rfl, rfl⟩, h⟩, fun ⟨_, _, ⟨hd, hc⟩, h⟩ => hd ▸ hc ▸ h⟩

/-- Outputs that are cleared where `t` names them, if `on`, and then set as the activation of `u` sets them, are switched. -/
theorem outputsSwitched_of_bits {on : Bool} {t u : Transport} {s s' : State}
    (hspi : ∀ k, s'.spiOpenAt k = (usesSpi u k || !(on && usesSpi t k) && s.spiOpenAt k))
    (hoe : ∀ p, s'.padOeAt p = (usesPad u p || !(on && usesPad t p) && s.padOeAt p))
    (hout : ∀ p, s'.padOutAt p = (!usesPad u p && s.padOutAt p)) :
    Claims.OutputsSwitched (on = true) t u s s' := by
  simp only [Claims.OutputsSwitched, ← usesSpi_iff, ← usesPad_iff]
  have hoff : ∀ b : Bool, ¬ (on = true ∧ b = true) → (on && b) = false := fun b h => by
    rwa [← Bool.and_eq_true, Bool.not_eq_true] at h
  refine ⟨fun k => ?_, fun p => ?_⟩
  · rw [hspi k]
    exact ⟨fun hu => by simp [hu], fun hu hon ht => by simp [hu, hon, ht], fun hu hkeep => by simp [hu, hoff _ hkeep]⟩
  · rw [hoe p, hout p]
    exact ⟨fun hu => by simp [hu], fun hu hon ht => by simp [hu, hon, ht], fun hu hkeep => by simp [hu, hoff _ hkeep],
      fun hu => by simp [hu]⟩

/-! ### Activation and teardown, traced (R88, R89) -/

theorem activated_wire (s : State) (t : Transport) :
    (s.activated t).wire = s.wire ++ (Claims.activationEvents t).map .out := by
  cases t <;> rfl

theorem tornDown_wire (s : State) (t : Transport) :
    (s.tornDown t).wire = s.wire ++ (Claims.teardownEvents t).map .out := by
  cases t <;> rfl

/-- The old transport left (R91, R92): torn down if it is active. -/
def State.left (s : State) : State := if s.active then s.tornDown s.tx else s

theorem left_frame (s : State) :
    s.left = { s with spiOpen := s.left.spiOpen, padOe := s.left.padOe, wire := s.left.wire } := by
  unfold State.left
  split
  · exact tornDown_frame s s.tx
  · rfl

@[simp] theorem left_cfg (s : State) : s.left.cfg = s.cfg := by rw [left_frame]

theorem left_wire (s : State) :
    s.left.wire = s.wire ++ (if s.active then Claims.teardownEvents s.tx else []).map .out := by
  unfold State.left
  split
  · exact tornDown_wire s s.tx
  · exact (List.append_nil _).symm

theorem left_outputs {s : State} (hs : Sound s) :
    (∀ k, s.left.spiOpenAt k = (!(s.active && usesSpi s.tx k) && s.spiOpenAt k)) ∧
    (∀ p, s.left.padOeAt p = (!(s.active && usesPad s.tx p) && s.padOeAt p)) := by
  unfold State.left
  split
  case isTrue ha => simpa only [ha, Bool.true_and] using tornDown_outputs hs.selection hs.spiWidth hs.oeWidth
  case isFalse ha => simp [ha]

theorem runOps_left {s : State} (hs : Sound s) :
    runOps (if s.active then teardown s.tx else []) s = .ok s.left := by
  unfold State.left
  split
  · exact runOps_teardown hs.selection
  · rfl

theorem left_sound {s : State} (hs : Sound s) : Sound s.left := by
  refine runOps_sound hs (fun op hop => ?_) (runOps_left hs)
  split at hop
  · obtain ⟨e, rfl⟩ := mem_teardown hop
    rfl
  · cases hop

/-- The state after the effects of a switch to `t` (R91, R92). -/
def State.switched (s : State) (t : Transport) : State :=
  { State.activated { s.left with tx := t } t with active := true }

theorem runOps_switchTo {s : State} {t : Transport} (hs : Sound s) (ht : t.wf s.cfg.pSpi s.cfg.pPins = true) :
    runOps (switchTo t s) s = .ok (s.switched t) := by
  have hact : runOps (activate t) { s.left with tx := t } = .ok (State.activated { s.left with tx := t } t) :=
    runOps_activate (s := { s.left with tx := t }) (by simpa using ht)
  rw [switchTo, List.append_assoc, List.append_assoc, runOps_append_ok (runOps_left hs)]
  exact (runOps_append_ok (b := [.setActive]) hact).trans rfl

theorem switched_wire (s : State) (t : Transport) :
    (s.switched t).wire = s.wire ++
      ((if s.active then Claims.teardownEvents s.tx else []) ++ Claims.activationEvents t).map .out := by
  rw [List.map_append, ← List.append_assoc, ← left_wire]
  exact activated_wire _ t

theorem switched_outputs {s : State} {t : Transport} (hs : Sound s) (ht : t.wf s.cfg.pSpi s.cfg.pPins = true) :
    Claims.OutputsSwitched (s.active = true) s.tx t s (s.switched t) := by
  have hpadOut : s.left.padOut = s.padOut := by rw [left_frame]
  have hleft := left_sound hs
  obtain ⟨hspi, hoe⟩ := left_outputs hs
  obtain ⟨hspi', hoe', hout'⟩ := activated_outputs (s := { s.left with tx := t }) (by simpa using ht) hleft.spiWidth
    hleft.oeWidth hleft.outWidth
  refine outputsSwitched_of_bits (fun k => ?_) (fun p => ?_) (fun p => ?_)
  · rw [← hspi]; exact hspi' k
  · rw [← hoe]; exact hoe' p
  · exact (hout' p).trans (by simp only [State.padOutAt, hpadOut])

theorem switched_frame (s : State) (t : Transport) :
    s.switched t = { s with
      tx := t, active := true, spiOpen := (s.switched t).spiOpen, padOe := (s.switched t).padOe,
      padOut := (s.switched t).padOut, wire := (s.switched t).wire } := by
  have hact := activated_frame { s.left with tx := t } t
  calc s.switched t
      = { s.left with
          tx := t, active := true, spiOpen := (s.switched t).spiOpen, padOe := (s.switched t).padOe,
          padOut := (s.switched t).padOut, wire := (s.switched t).wire } :=
        congrArg (fun v : State => { v with active := true }) hact
    _ = _ :=
        congrArg (fun v : State => { v with
          tx := t, active := true, spiOpen := (s.switched t).spiOpen, padOe := (s.switched t).padOe,
          padOut := (s.switched t).padOut, wire := (s.switched t).wire }) (left_frame s)

/-! ### Activating what is active (R90, R100) -/

theorem activated_pads (s : State) (t : Transport) :
    (s.activated t).pads = ((Claims.activationEvents t).map WireEvent.out).foldl Pads.after s.pads := by
  cases t <;> rfl

/-- Where a transport was activated, each event of its activation leaves every level as it is. -/
theorem after_activationEvents {s : State} {t : Transport} (hs : Sound s) (ht : t.wf s.cfg.pSpi s.cfg.pPins = true)
    {e : WireEvent} (he : e ∈ (Claims.activationEvents t).map WireEvent.out) :
    (s.activated t).pads.after e = (s.activated t).pads := by
  obtain ⟨-, hoe, hout⟩ := activated_outputs ht hs.spiWidth hs.oeWidth hs.outWidth
  cases t with
  | hw k =>
    obtain rfl : e = .out (.spiOpen k) := by simpa [Claims.activationEvents] using he
    rfl
  | sw d c =>
    have hmode : ∀ p : Byte, usesPad (.sw d c) p.toNat = true →
        (s.activated (.sw d c)).padOe.set p.toNat true = (s.activated (.sw d c)).padOe := fun p hp =>
      set_same _ _ _ ((hoe p.toNat).trans (by rw [hp, Bool.true_or]))
    have hlevel : ∀ p : Byte, usesPad (.sw d c) p.toNat = true →
        (s.activated (.sw d c)).padOut.set p.toNat false = (s.activated (.sw d c)).padOut := fun p hp =>
      set_same _ _ _ ((hout p.toNat).trans (by rw [hp]; rfl))
    have hd : usesPad (.sw d c) d.toNat = true := by simp [usesPad]
    have hc : usesPad (.sw d c) c.toNat = true := by simp [usesPad]
    simp only [Claims.activationEvents, List.map_cons, List.map_nil, List.mem_cons, List.not_mem_nil, or_false] at he
    rcases he with rfl | rfl | rfl | rfl
    · exact congrArg (Pads.mk · _) (hmode d hd)
    · exact congrArg (Pads.mk · _) (hmode c hc)
    · exact congrArg (Pads.mk _) (hlevel d hd)
    · exact congrArg (Pads.mk _) (hlevel c hc)

theorem waveform_eq_nil {p : Pads} {es : List WireEvent} (h : ∀ e ∈ es, p.after e = p) : waveform p es = [] := by
  induction es with
  | nil => rfl
  | cons e es ih => rw [waveform_skip (h e (by simp)), ih fun e' he' => h e' (by simp [he'])]

/-- Where the outputs are as an activation of `t` left them, another one changes none of them. -/
theorem activated_again {s v : State} {t : Transport} (hs : Sound s) (ht : t.wf s.cfg.pSpi s.cfg.pPins = true)
    (hspi : v.spiOpen = (s.activated t).spiOpen) (hpads : v.pads = (s.activated t).pads) :
    (v.activated t).spiOpen = v.spiOpen ∧ (v.activated t).pads = v.pads ∧
      waveform v.pads ((Claims.activationEvents t).map .out) = [] := by
  have hquiet : waveform v.pads ((Claims.activationEvents t).map .out) = [] :=
    waveform_eq_nil fun e he => hpads ▸ after_activationEvents hs ht he
  refine ⟨?_, ?_, hquiet⟩
  · cases t with
    | hw k =>
      have hopen : v.spiOpen = s.spiOpen.set k.toNat true := hspi
      show v.spiOpen.set k.toNat true = v.spiOpen
      rw [hopen, List.set_set]
    | sw d c => rfl
  · rw [activated_pads, ← waveform_foldl, hquiet, List.foldl_nil]

end Sys2Proof.Machine

namespace Sys2Proof.Claims

open Sys2Proof Sys2Proof.Machine

/-! ### BEGIN (R90) -/

theorem exec_begin {s : State} (h : s.tx.wf s.cfg.pSpi s.cfg.pPins = true) :
    exec .beginTx s = .next (answered { s.activated s.tx with active := true } ⟨.ok, 0⟩) :=
  exec_doing rfl ((runOps_append_ok (runOps_activate h)).trans rfl)

/-- Settles O33: the word is its row's, and BEGIN's effects are the activation of TXSEL, with nothing torn down, and ACTIVE
set. -/
theorem beginResult : Obligations.BeginResult := by
  refine ⟨commandWords_of_row 12 rfl fun w =>
    let ⟨_, _, _, _, _, _, _, _, _, _, _, _, hbegin, _⟩ := covers_iff w; hbegin, fun s hs => ?_⟩
  obtain ⟨hspi, hoe, hout⟩ := activated_outputs hs.selection hs.spiWidth hs.oeWidth hs.outWidth
  have hswitched : OutputsSwitched (false = true) s.tx s.tx s (s.activated s.tx) :=
    outputsSwitched_of_bits (by simpa using hspi) (by simpa using hoe) hout
  rw [Bool.false_eq_true] at hswitched
  exact ⟨_, exec_begin hs.selection, rfl, activated_wire s s.tx, hswitched,
    congrArg (fun v : State => answered { v with active := true } ⟨.ok, 0⟩) (activated_frame s s.tx)⟩

/-- Settles O34: after the first BEGIN the outputs have the values the activation sets, so its events change nothing. -/
theorem beginAgainKeepsOutputs : Obligations.BeginAgainKeepsOutputs := by
  intro s hs
  have hfirst := exec_begin hs.selection
  have htx : (s.activated s.tx).tx = s.tx := by rw [activated_frame]
  have hcfg : (s.activated s.tx).cfg = s.cfg := by rw [activated_frame]
  set t := answered { s.activated s.tx with active := true } ⟨.ok, 0⟩
  have hsel : t.tx.wf t.cfg.pSpi t.cfg.pPins = true := by
    show (s.activated s.tx).tx.wf _ _ = true
    rw [htx]
    exact hcfg ▸ hs.selection
  have hsecond := exec_begin hsel
  rw [show t.tx = s.tx from htx] at hsecond
  obtain ⟨hspi, hpads, hquiet⟩ := activated_again (v := t) hs hs.selection rfl rfl
  exact ⟨t, _, hfirst, hsecond, hspi, congrArg Pads.oe hpads, congrArg Pads.out hpads, activated_wire t s.tx, hquiet⟩

/-! ### SETTXHW and SETTXSW (R91, R92) -/

/-- A command that is ILLEGAL changes nothing but the response (R105). -/
theorem exec_illegal {i : Instr} {s : State} (h : plan i s = Plan.illegal) :
    exec i s = .next (answered s ⟨.illegal, 0⟩) := by
  rw [exec_eq_plan, h]
  exact Plan.run_of_ok (runOps_nil s)

/-- A command whose plan is the switch to a legal transport: the old one torn down if active, the new one activated. -/
theorem exec_switch {i : Instr} {s : State} {t : Transport} (hs : Sound s) (ht : t.wf s.cfg.pSpi s.cfg.pPins = true)
    (hplan : plan i s = Plan.doing (switchTo t s)) : ∃ u : State, exec i s = .next u ∧
      u.tx = t ∧ u.active = true ∧
      u.wire = s.wire ++ ((if s.active then teardownEvents s.tx else []) ++ activationEvents t).map .out ∧
      OutputsSwitched (s.active = true) s.tx t s u ∧
      u = answered { s with tx := u.tx, active := u.active, spiOpen := u.spiOpen, padOe := u.padOe, padOut := u.padOut,
                            wire := u.wire } ⟨.ok, 0⟩ := by
  have htx : (answered (s.switched t) ⟨.ok, 0⟩).tx = t := by rw [switched_frame]; rfl
  refine ⟨_, exec_doing hplan (runOps_switchTo hs ht), htx, rfl, switched_wire s t, switched_outputs hs ht, ?_⟩
  rw [htx]
  exact congrArg (answered · ⟨.ok, 0⟩) (switched_frame s t)

/-- Settles O35: the word is its row's, and SETTXHW is ILLEGAL or the switch to HW(PER), by R91's check. -/
theorem settxhwResult : Obligations.SettxhwResult := by
  refine ⟨commandWords_of_row 13 rfl fun w =>
    let ⟨_, _, _, _, _, _, _, _, _, _, _, _, _, hsettxhw, _⟩ := covers_iff w; hsettxhw,
    fun s per hper => exec_illegal (if_neg ?_), fun s per hs hper => ?_⟩
  · rwa [perLegal_iff, Transport.wf_hw, not_lt]
  · have hwf : (Transport.hw per).wf s.cfg.pSpi s.cfg.pPins = true := Transport.wf_hw.mpr hper
    exact exec_switch hs hwf (if_pos (perLegal_iff.mpr hwf))

/-- Settles O36: the word is its row's, and SETTXSW is ILLEGAL or the switch to SW(DPIN, CPIN), by R92's check. -/
theorem settxswResult : Obligations.SettxswResult := by
  refine ⟨commandWords_of_row 14 rfl fun w =>
    let ⟨_, _, _, _, _, _, _, _, _, _, _, _, _, _, hsettxsw, _⟩ := covers_iff w; hsettxsw,
    fun s d c hpins => exec_illegal (if_neg ?_), fun s d c hs hd hc hdc => ?_⟩
  · rw [pinsLegal_iff, Transport.wf_sw]
    rintro ⟨hd, hc, hdc⟩
    rcases hpins with h | h | h
    · exact absurd hd h.not_gt
    · exact absurd hc h.not_gt
    · exact hdc h
  · have hwf : (Transport.sw d c).wf s.cfg.pSpi s.cfg.pPins = true := Transport.wf_sw.mpr ⟨hd, hc, hdc⟩
    exact exec_switch hs hwf (if_pos (pinsLegal_iff.mpr hwf))

end Sys2Proof.Claims

namespace Sys2Proof.Machine

/-! ### What SHOW changes (R98, R99, R103) -/

theorem mem_planShow_ops {s : State} {op : MicroOp} (h : op ∈ (planShow s).ops) :
    s.active = true ∧ 0 < s.n.toNat ∧ ∃ e x, op = .drive e ∧ e ∈ deliver s.tx x := by
  rw [planShow_ops] at h
  split at h
  case isTrue ha =>
    obtain ⟨e, he, rfl⟩ := List.mem_map.mp h
    obtain ⟨x, hx, hex⟩ := List.mem_flatMap.mp he
    refine ⟨ha, Nat.pos_of_ne_zero fun hn => ?_, e, x, rfl, hex⟩
    rw [(frame_bytes s).1 hn] at hx
    cases hx
  case isFalse => cases h

/-- Delivering a byte leaves every pad that the transport does not name at its level. -/
theorem drive_deliver_padOutAt {t : Transport} {x : Byte} {e : OutEvent} {s u : State} {p : Nat}
    (he : e ∈ deliver t x) (hp : ¬ Claims.namesPad t p) (h : drive e s = .ok u) : u.padOutAt p = s.padOutAt p := by
  cases t with
  | hw k =>
    obtain rfl : e = .spiByte k x := by simpa [deliver] using he
    simp only [drive] at h
    split at h <;> cases h
    rfl
  | sw d c =>
    obtain ⟨q, v, rfl, hq⟩ : ∃ q v, e = .padWrite q v ∧ (q = d ∨ q = c) := by
      obtain ⟨j, -, hj⟩ := List.mem_flatMap.mp he
      simp only [bitWrites, List.mem_cons, List.not_mem_nil, or_false] at hj
      rcases hj with rfl | rfl | rfl <;> exact ⟨_, _, rfl, by simp⟩
    have hne : q.toNat ≠ p := fun h => hp ⟨d, c, rfl, hq.imp (by rintro rfl; exact h.symm) (by rintro rfl; exact h.symm)⟩
    simp only [drive] at h
    split at h <;> cases h
    exact (getD_set _ _ _ _).trans (if_neg fun ⟨h, _⟩ => hne h)

section
variable {s u : State} (h : runOps (planShow s).ops s = .ok u)
include h

theorem show_frame : u = { s with padOut := u.padOut, wire := s.wire ++ (opEvents (planShow s).ops).map .out } := by
  have hkeeps := runOps_keeps_or (P := False) (fun v => (v.n, v.bri, v.tx, v.active, v.buf, v.spiOpen, v.padOe))
    (fun op hop v t ht => by
      obtain ⟨e, rfl, he⟩ := mem_planShow hop
      obtain ⟨hspi, hoe⟩ := Prod.mk.inj (drive_data_keeps he ht)
      have hdrive := drive_frame ht
      rw [hspi, hoe] at hdrive
      exact .inl (by rw [hdrive])) h
  simp only [Prod.mk.injEq, or_false] at hkeeps
  obtain ⟨hn, hbri, htx, hactive, hbuf, hspi, hoe⟩ := hkeeps
  have hframe := runOps_frame h
  rwa [hn, hbri, htx, hactive, hbuf, hspi, hoe] at hframe

theorem show_padOutAt {p : Nat} (hp : ¬ (s.active = true ∧ 0 < s.n.toNat ∧ Claims.namesPad s.tx p)) :
    u.padOutAt p = s.padOutAt p := by
  refine (runOps_keeps_or (P := False) (State.padOutAt · p) (fun op hop v t ht => ?_) h).resolve_right id
  obtain ⟨ha, hn, e, x, rfl, he⟩ := mem_planShow_ops hop
  exact .inl (drive_deliver_padOutAt he (fun hnames => hp ⟨ha, hn, hnames⟩) ht)

end

/-! ### The last bit of a frame (R99, R104) -/

theorem frame_ends_high {s : State} (hn : 0 < s.n.toNat) : ∃ front, frame s = front ++ [0xFF] := by
  obtain ⟨k, hk⟩ := Nat.exists_eq_add_one.mpr (show 0 < endMarkerLength s.n.toNat by unfold endMarkerLength; omega)
  refine ⟨List.replicate 4 0 ++ ((List.range s.n.toNat).flatMap (pixelFrame s) ++ List.replicate k 0xFF), ?_⟩
  rw [frame_of_pos hn, hk, List.replicate_succ' (n := k), List.append_assoc, List.append_assoc]

/-- On two pads the frame's last three writes are those of a bit 1. -/
theorem showEvents_sw_last {s : State} {d c : Byte} (htx : s.tx = .sw d c) (hn : 0 < s.n.toNat) :
    ∃ front, showEvents s = front ++ bitWrites d c true := by
  obtain ⟨bytes, hbytes⟩ := frame_ends_high hn
  refine ⟨bytes.flatMap (bitBang d c) ++
    [7, 6, 5, 4, 3, 2, 1].flatMap (fun j => bitWrites d c ((0xFF : Byte).getLsbD j)), ?_⟩
  rw [showEvents, hbytes, htx, List.flatMap_append, List.append_assoc]
  rfl

theorem show_levels {s u : State} {d c : Byte} (hs : Sound s) (ha : s.active = true) (hn : 0 < s.n.toNat)
    (htx : s.tx = .sw d c) (h : runOps (planShow s).ops s = .ok u) :
    u.padOutAt d.toNat = true ∧ u.padOutAt c.toNat = false := by
  obtain ⟨hd, hc, hdc⟩ := Transport.wf_sw.mp (htx ▸ hs.selection)
  obtain ⟨front, hfront⟩ := showEvents_sw_last htx hn
  have hops : (planShow s).ops = front.map .drive ++ (bitWrites d c true).map .drive := by
    rw [planShow_ops, if_pos ha, ← List.map_append, ← hfront]
    rfl
  obtain ⟨v, hv, hu⟩ := runOps_prefix_ok (hops ▸ h)
  have hcfg : v.cfg = s.cfg := by rw [runOps_frame hv]
  have hsound : Sound v := runOps_sound hs (fun op hop => by obtain ⟨e, -, rfl⟩ := List.mem_map.mp hop; rfl) hv
  have hwidth : v.padOut.length = s.cfg.pPins := hcfg ▸ hsound.outWidth
  rw [runOps_bits (hcfg ▸ hd) (hcfg ▸ hc)] at hu
  cases hu
  have hne : c.toNat ≠ d.toNat := fun h => hdc (BitVec.eq_of_toNat_eq h.symm)
  have hd' : d.toNat < v.padOut.length := by omega
  have hc' : c.toNat < v.padOut.length := by omega
  simp [State.padOutAt, hne, hd', hc']

/-! ### What a receiver reads of a SHOW (R101, R102) -/

theorem spiBytes_map (k : Byte) (xs : List Byte) : spiBytes k (xs.map (.spiByte k)) = xs := by
  simp [spiBytes, List.filterMap_map]

/-- The three writes of a bit are sampled as the bit. -/
theorem sampleBits_bitWrites {d c : Byte} (hdc : d ≠ c) (v b : Bool) (es : List OutEvent) :
    sampleBits d c v (bitWrites d c b ++ es) = b :: sampleBits d c b es := by
  simp [bitWrites, sampleBits, hdc, hdc.symm]

theorem byteOfBits_getLsbD (x : Byte) :
    byteOfBits (x.getLsbD 7) (x.getLsbD 6) (x.getLsbD 5) (x.getLsbD 4) (x.getLsbD 3) (x.getLsbD 2) (x.getLsbD 1)
      (x.getLsbD 0) = x := by
  refine BitVec.eq_of_getMsbD_eq fun i hi => ?_
  rw [byteOfBits, BitVec.getMsbD_ofBoolListBE, BitVec.getMsbD_eq_getLsbD]
  interval_cases i <;> rfl

/-- A byte bit-banged is sampled, bit 7 first, and grouped as the byte. -/
theorem groupBits_bitBang {d c : Byte} (hdc : d ≠ c) (v : Bool) (xs : List Byte) :
    groupBits (sampleBits d c v (xs.flatMap (bitBang d c))) = xs := by
  induction xs generalizing v with
  | nil => rfl
  | cons x xs ih =>
    simp only [List.flatMap_cons, bitBang, List.flatMap_nil, List.append_nil, List.append_assoc,
      sampleBits_bitWrites hdc]
    exact congrArg₂ List.cons (byteOfBits_getLsbD x) (ih _)

theorem logicalBytes_deliver {t : Transport} {nSpi nPins : Nat} (ht : t.wf nSpi nPins = true) (xs : List Byte) :
    logicalBytes t (xs.flatMap (deliver t)) = xs := by
  cases t with
  | hw k =>
    have hmap : xs.flatMap (deliver (.hw k)) = xs.map (.spiByte k) := List.flatMap_pure_eq_map _ _
    exact (congrArg (spiBytes k) hmap).trans (spiBytes_map k xs)
  | sw d c =>
    obtain ⟨-, -, hdc⟩ := Transport.wf_sw.mp ht
    exact groupBits_bitBang hdc false xs

end Sys2Proof.Machine

namespace Sys2Proof.Claims

open Sys2Proof Sys2Proof.Machine

/-! ### SHOW (R95, R96, R102 to R104) -/

theorem exec_show {s : State} (hs : Sound s) :
    ∃ u, runOps (planShow s).ops s = .ok u ∧ exec .showFrame s = .next (answered u ⟨.ok, 0⟩) := by
  obtain ⟨u, hu⟩ := runOps_show_ok hs.selection
  exact ⟨u, hu, (exec_eq_plan _ _).trans (Plan.run_of_ok hu)⟩

theorem opEvents_planShow (s : State) :
    opEvents (planShow s).ops = if s.active then (frame s).flatMap (delivered s.tx) else [] := by
  rw [planShow_ops, funext (deliver_eq s.tx)]
  split
  · exact opEvents_map_drive _
  · rfl

/-- Settles O38: the word is its row's, the frame is R95's, and SHOW's effects are its bytes delivered, which write the two
pads of the selection and nothing else; the last bit of the end marker is 1. -/
theorem showResult : Obligations.ShowResult := by
  refine ⟨commandWords_of_row 15 rfl fun w =>
    let ⟨_, _, _, _, _, _, _, _, _, _, _, _, _, _, _, hshow⟩ := covers_iff w; hshow, fun s hs => ?_⟩
  obtain ⟨u, hu, hexec⟩ := exec_show hs
  have hframe := congrArg (answered · ⟨.ok, 0⟩) (show_frame hu)
  simp only [opEvents_planShow] at hframe
  exact ⟨frame s, _, frame_bytes s, hexec, hframe, fun p hp => (show_padOutAt hu hp :),
    fun d c ha hn htx => (show_levels hs ha hn htx hu :)⟩

/-- Settles O39: the wire gains the frame's bytes delivered, and a receiver reads each byte off its own delivery. -/
theorem showStreamIsTheFrame : Obligations.ShowStreamIsTheFrame := by
  intro s hs ha hn
  obtain ⟨u, hu, hexec⟩ := exec_show hs
  refine ⟨frame s, showEvents s, _, hexec, ?_, frame_bytes s, logicalBytes_deliver hs.selection (frame s)⟩
  have hops : (planShow s).ops = (showEvents s).map .drive := by rw [planShow_ops, if_pos ha]; rfl
  have hwire : u.wire = s.wire ++ (opEvents (planShow s).ops).map .out := by rw [runOps_frame hu]
  rwa [hops, opEvents_map_drive] at hwire

/-- Settles O40: SHOW ends with a bit 1, whose last write is the clock's low, and BEGIN drives both pads low. -/
theorem padsAfterShowAndBegin : Obligations.PadsAfterShowAndBegin := by
  intro s d c hs htx
  refine ⟨fun ha hn => ?_, ?_⟩
  · obtain ⟨u, hu, hexec⟩ := exec_show hs
    obtain ⟨hd, hc⟩ := show_levels hs ha hn htx hu
    exact ⟨_, hexec, hc, hd, (congrArg State.padOe (show_frame hu) :)⟩
  · obtain ⟨-, -, hout⟩ := activated_outputs hs.selection hs.spiWidth hs.oeWidth hs.outWidth
    refine ⟨_, exec_begin hs.selection, (hout c.toNat).trans ?_, (hout d.toNat).trans ?_⟩ <;> simp [htx, usesPad]

/-- Settles O37: adding 15 before the division by 16 rounds up. -/
theorem endMarkerLeast : Obligations.EndMarkerLeast := by
  unfold Obligations.EndMarkerLeast endMarkerLength
  refine ⟨fun n => ⟨by omega, fun e he => by omega⟩, fun n => rfl, fun n h1 h2 => by omega, fun n h1 h2 => by omega, rfl⟩

end Sys2Proof.Claims

namespace Sys2Proof.Machine

/-! ### The waveform as a sequence of levels (R100) -/

/-- The levels along a waveform are the levels along the trace without consecutive repeats. -/
theorem waveform_scanl (p : Pads) (es : List WireEvent) :
    (waveform p es).scanl Pads.after p = (es.scanl Pads.after p).destutter (· ≠ ·) := by
  induction es generalizing p with
  | nil => rfl
  | cons e es ih =>
    obtain ⟨levels, hlevels⟩ : ∃ levels, es.scanl Pads.after (p.after e) = p.after e :: levels := by
      cases es <;> simp [List.scanl_cons]
    have hrest := ih (p.after e)
    rw [List.scanl_cons, hlevels, List.destutter_cons_cons]
    rw [hlevels, List.destutter_cons'] at hrest
    by_cases h : p.after e = p
    · rw [waveform_skip h, if_neg (not_not.mpr h.symm)]
      rwa [h] at hrest
    · rw [waveform_keep h, if_pos (Ne.symm h), ← hrest, List.scanl_cons]

theorem waveform_singleton_eq_nil {p : Pads} {e : WireEvent} : waveform p [e] = [] ↔ p.after e = p := by
  by_cases h : p.after e = p
  · simp [waveform_skip h, h]
  · simp [waveform_keep h, h]

theorem after_reset_eq_iff (p : Pads) : p.after .reset = p ↔ (∀ v ∈ p.oe, v = false) ∧ ∀ v ∈ p.out, v = false := by
  obtain ⟨oe, out⟩ := p
  simp only [Pads.after, Pads.mk.injEq, List.map_const']
  exact and_congr (eq_comm.trans List.eq_replicate_length) (eq_comm.trans List.eq_replicate_length)

/-! ### The wire trace tells the pads' levels (R12, R25) -/

/-- What `t` has more on its wire trace than `s` leads from the pads' levels of `s` to those of `t`. -/
def WireTellsPads (s t : State) : Prop :=
  ∃ events, t.wire = s.wire ++ events ∧ t.pads = events.foldl Pads.after s.pads

theorem wireTellsPads_of_same {s t : State} (hwire : t.wire = s.wire) (hpads : t.pads = s.pads) : WireTellsPads s t :=
  ⟨[], by rw [hwire, List.append_nil], hpads⟩

theorem runOps_wireTellsPads {ops : List MicroOp} {s t : State} (h : runOps ops s = .ok t) : WireTellsPads s t :=
  ⟨_, by rw [runOps_frame h], runOps_pads h⟩

theorem runWord_wireTellsPads {w : Word} {s t : State} (h : runWord w s = .next t) : WireTellsPads s t := by
  rw [runWord_eq_plan] at h
  obtain ⟨u, hu, rfl⟩ := Plan.run_next h
  exact (runOps_wireTellsPads hu :)

theorem tick_wireTellsPads {b : Bool} {s t : State} (h : tick b s = .next t) : WireTellsPads s t := by
  rcases tick_cases b s with ⟨-, hq⟩ | ⟨f, -, ⟨-, hend⟩ | ⟨op, ops, -, ⟨-, -, hwait⟩ | ⟨u, hu, hdone⟩ | ⟨e, -, hfault⟩⟩⟩
  · rw [hq] at h; cases h; exact wireTellsPads_of_same rfl rfl
  · rw [hend] at h; cases h
    cases f.answer <;> exact wireTellsPads_of_same rfl rfl
  · rw [hwait] at h; cases h; exact wireTellsPads_of_same rfl rfl
  · rw [hdone] at h; cases h
    exact (runOps_wireTellsPads ((runOps_cons_ok (ops := []) hu).trans rfl) :)
  · rw [hfault] at h; cases h

theorem react_wireTellsPads {inp : Input} {s t : State} (hs : Sound s) (h : react inp s = .next t) :
    WireTellsPads s t := by
  obtain ⟨hedge, hdone⟩ := reset_pads hs.oeWidth hs.outWidth
  cases inp with
  | command w =>
    cases hb : s.busy with
    | true => rw [react_command_busy hb] at h; cases h; exact wireTellsPads_of_same rfl rfl
    | false => rw [react_command_ready hb] at h; exact (runWord_wireTellsPads h :)
  | accept w =>
    cases hb : s.busy with
    | true => rw [react_accept_busy hb] at h; cases h; exact wireTellsPads_of_same rfl rfl
    | false => rw [react_accept_ready hb] at h; cases h; exact wireTellsPads_of_same rfl rfl
  | tick b => exact tick_wireTellsPads h
  | reset => cases h; exact ⟨[.reset], rfl, hdone⟩
  | rst => cases h; exact ⟨[.reset], rfl, hedge⟩

end Sys2Proof.Machine

namespace Sys2Proof.Claims

open Sys2Proof Sys2Proof.Machine

/-- Settles O56: an event is in the waveform exactly if the next level differs, a Reset as any other, and a step sets the pads
as the events it traces tell. -/
theorem waveformIsTheDistinctValues : Obligations.WaveformIsTheDistinctValues := by
  refine ⟨waveform_scanl, fun p => waveform_singleton_eq_nil.trans (after_reset_eq_iff p), fun s t hinv h => ?_⟩
  obtain ⟨events, hwire, hpads⟩ : WireTellsPads s t := by
    obtain ⟨-, ⟨-, rfl⟩ | ⟨inp, rest, -, hr⟩⟩ := step_cases h
    · exact wireTellsPads_of_same rfl rfl
    · have hinv' : Inv { s with inputs := rest } := hinv.reshell _ _ _ _
      exact (react_wireTellsPads hinv'.sound hr :)
  exact ⟨events, hwire, (waveform_foldl _ _).trans hpads.symm⟩

end Sys2Proof.Claims

namespace Sys2Proof.Machine

/-! ### The causes of ILLEGAL, and the status of a word (R105, R107) -/

theorem not_perLegal_iff {p : Config.Params} {per : Byte} : ¬ perLegal p per = true ↔ p.pSpi ≤ per.toNat := by
  rw [perLegal_iff, Transport.wf_hw, not_lt]

theorem not_pinsLegal_iff {p : Config.Params} {d c : Byte} :
    ¬ pinsLegal p d c = true ↔ p.pPins ≤ d.toNat ∨ p.pPins ≤ c.toNat ∨ d = c := by
  rw [pinsLegal_iff, Transport.wf_sw, not_and_or, not_and_or, not_lt, not_lt, not_ne_iff]

/-- The command fails the operand check of R91 or R92. -/
def OperandsIllegal (p : Config.Params) (i : Instr) : Prop :=
  (∃ per, i = .settxhw per ∧ p.pSpi ≤ per.toNat) ∨
  (∃ d c, i = .settxsw d c ∧ (p.pPins ≤ d.toNat ∨ p.pPins ≤ c.toNat ∨ d = c))

theorem plan_of_operandsIllegal {i : Instr} {s : State} (h : OperandsIllegal s.cfg i) : plan i s = Plan.illegal := by
  rcases h with ⟨per, rfl, hper⟩ | ⟨d, c, rfl, hpins⟩
  · exact if_neg (not_perLegal_iff.mpr hper)
  · exact if_neg (not_pinsLegal_iff.mpr hpins)

theorem plan_status_ok {i : Instr} {s : State} (h : ¬ OperandsIllegal s.cfg i) : (plan i s).answer.status = .ok := by
  cases i with
  | settxhw per =>
    have hper : perLegal s.cfg per = true := by
      by_contra hbad
      exact h (.inl ⟨per, rfl, not_perLegal_iff.mp hbad⟩)
    rw [show plan (.settxhw per) s = _ from if_pos hper]
    rfl
  | settxsw d c =>
    have hpins : pinsLegal s.cfg d c = true := by
      by_contra hbad
      exact h (.inr ⟨d, c, rfl, not_pinsLegal_iff.mp hbad⟩)
    rw [show plan (.settxsw d c) s = _ from if_pos hpins]
    rfl
  | resize len =>
    simp only [plan, planResize]
    split <;> rfl
  | _ => rfl

/-- A word with one of the causes of R105: it decodes to nothing, or its command fails the operand check. -/
def IllegalWord (p : Config.Params) (w : Word) : Prop :=
  (∃ e, decode w = .error e) ∨
  (∃ per, decode w = .ok (.settxhw per) ∧ p.pSpi ≤ per.toNat) ∨
  (∃ d c, decode w = .ok (.settxsw d c) ∧ (p.pPins ≤ d.toNat ∨ p.pPins ≤ c.toNat ∨ d = c))

theorem illegalWord_of_ok {p : Config.Params} {w : Word} {i : Instr} (h : decode w = .ok i) :
    IllegalWord p w ↔ OperandsIllegal p i := by
  simp [IllegalWord, OperandsIllegal, h]

/-- The plan of a word, by whether it has a cause of R105. -/
theorem planWord_cases (w : Word) (s : State) :
    (IllegalWord s.cfg w ∧ planWord w s = Plan.illegal) ∨
    (¬ IllegalWord s.cfg w ∧ (planWord w s).answer.status = .ok) := by
  unfold planWord
  cases hd : decode w with
  | error e => exact .inl ⟨.inl ⟨e, hd⟩, rfl⟩
  | ok i =>
    rw [illegalWord_of_ok hd]
    by_cases h : OperandsIllegal s.cfg i
    · exact .inl ⟨h, plan_of_operandsIllegal h⟩
    · exact .inr ⟨h, plan_status_ok h⟩

/-- A step on a word presented to a ready block, inverted: the effects of the word's plan, then its response. -/
theorem step_command_next {s t : State} {w : Word} {rest : List Input} (hw : s.cfg.wf = true) (hready : s.cmdReady = true)
    (hin : s.inputs = .command w :: rest) (h : step s = .next t) :
    ∃ u, runOps (planWord w s).ops (State.portsQuiet { s with inputs := rest }) = .ok u ∧
      t = Claims.answered u (planWord w s).answer := by
  have hb : State.busy { s with inputs := rest } = false := busy_of_cmdReady (s := s) hready
  rw [step_input hw hin, react_command_ready hb, runWord_eq_plan, planWord_portsQuiet] at h
  exact Plan.run_next h

end Sys2Proof.Machine

namespace Sys2Proof.Claims

open Sys2Proof Sys2Proof.Machine

/-- Settles O11: the step answers with its plan's response, and the plan is ILLEGAL's or has status OK, by the causes of
R105. -/
theorem everyCommandHasOneStatus : Obligations.EveryCommandHasOneStatus := by
  intro s t w rest hw hready hin hstep
  obtain ⟨u, hu, rfl⟩ := step_command_next hw hready hin hstep
  rcases planWord_cases w s with ⟨hbad, hplan⟩ | ⟨hgood, hok⟩
  · rw [hplan] at hu ⊢
    cases hu
    exact ⟨illegalResponse, rfl, rfl, .inr rfl, iff_of_true rfl hbad, fun _ => rfl⟩
  · have hrsp : u.rsp = s.rsp := by rw [runOps_frame hu]; rfl
    have hcode : (planWord w s).answer.status.code = 0 := congrArg Status.code hok
    have hne : (planWord w s).answer.status.code ≠ 1 := by rw [hcode]; decide
    exact ⟨_, congrArg (· ++ [_]) hrsp, rfl, .inl hcode, iff_of_false hne hgood, fun h => absurd h hne⟩

/-- Settles O10: a word that decodes to nothing is answered ILLEGAL by the step, and a command that fails its operand check
has the plan without effect. -/
theorem illegalChangesNothing : Obligations.IllegalChangesNothing := by
  refine ⟨fun s w rest e hw hready hin hdec => ?_,
    fun s per hper => exec_illegal (plan_of_operandsIllegal (.inl ⟨per, rfl, hper⟩)),
    fun s d c hpins => exec_illegal (plan_of_operandsIllegal (.inr ⟨d, c, rfl, hpins⟩))⟩
  have hnone : ¬ ∃ i, decode w = .ok i := by simp [hdec]
  have hbusy : (answered { s with inputs := rest } ⟨.illegal, 0⟩).busy = false := busy_of_cmdReady (s := s) hready
  refine ⟨step_illegal hw hready hin hnone, hbusy, fun hnext => cmdReady_iff.mpr ⟨hbusy, ?_⟩⟩
  rw [← Bool.not_eq_true, ← resetNext_iff]
  exact hnext

end Sys2Proof.Claims

namespace Sys2Proof.Machine

/-! ### What the serial port says of the effects to come (R33, R98) -/

/-- Effects to come that hand no byte to a peripheral leave the serial port quiet. -/
theorem spiTx_of_no_wait {s : State} (h : ∀ op ∈ s.engine.pending, op.waits = false) : s.spiTx = none := by
  unfold State.spiTx
  split
  case h_1 k x ops hp => cases h (.drive (.spiByte k x)) (hp ▸ List.mem_cons_self)
  case h_2 => rfl

/-- A byte on the serial port is the next effect of a flight. -/
theorem flight_of_spiTx {s : State} {k x : Byte} (h : s.spiTx = some (k, x)) :
    ∃ f ops, s.engine = .running f ∧ f.pending = .drive (.spiByte k x) :: ops := by
  unfold State.spiTx at h
  split at h
  case h_1 k' x' ops hp =>
    cases h
    cases he : s.engine with
    | idle => rw [he] at hp; cases hp
    | running f => rw [he] at hp; exact ⟨f, ops, rfl, hp⟩
  case h_2 => cases h

/-! ### The edge of a reset and the clear of the buffer (R119) -/

/-- The block at `s` after the edge of a reset and `j` bytes of the clear, the inputs `rest` left. -/
def State.clearing (s : State) (j : Nat) (rest : List Input) : State :=
  { s.resetEdge with
    buf := Memory.writes s.resetEdge.buf (zeroBytes j)
    engine := .running ⟨false, j, (zeroWrites (resetCount s.cfg).toNat).drop j, none⟩
    inputs := rest }

theorem length_zeroWrites (count : Nat) : (zeroWrites count).length = 3 * count := by
  simp [zeroWrites]

/-- The first `j` bytes of a clear. -/
theorem runOps_take_zeroWrites {count j : Nat} {s : State} (hj : j ≤ 3 * count) (hn : count ≤ s.n.toNat) :
    runOps ((zeroWrites count).take j) s = .ok { s with buf := Memory.writes s.buf (zeroBytes j) } := by
  have htake : (zeroWrites count).take j = writeOps (zeroBytes j) := by
    rw [zeroWrites_eq, writeOps, ← List.map_take, ← List.map_take, List.take_range, Nat.min_eq_left hj]
    rfl
  rw [htake]
  refine runOps_writeOps fun w hw => ?_
  obtain ⟨hlt, -⟩ := mem_zeroBytes.mp hw
  omega

/-- The edge of a reset and one tick for each of the first `j` bytes of the clear, whatever the peripheral does. -/
theorem run_rst_ticks {s : State} {readies : List Bool} {rest : List Input} (hw : s.cfg.wf = true)
    (hin : s.inputs = .rst :: (readies.map .tick ++ rest)) (hlen : readies.length ≤ 3 * (resetCount s.cfg).toNat) :
    Sys2Proof.core.run (readies.length + 1) s = .next (s.clearing readies.length rest) := by
  have htake : ((zeroWrites (resetCount s.cfg).toNat).take readies.length).length = readies.length :=
    List.length_take_of_le (by rwa [length_zeroWrites])
  have hticks := run_ticks (s := State.resetEdge { s with inputs := readies.map .tick ++ rest }) hw rfl
    (List.take_append_drop readies.length _).symm (runOps_take_zeroWrites hlen le_rfl) rfl htake.symm
    (.inr fun op hop => waits_of_mem_zeroWrites (List.mem_of_mem_take hop))
  rw [htake] at hticks
  refine (run_succ_next (step_input hw hin)).trans (hticks.trans ?_)
  simp [State.advanced, State.clearing, State.resetEdge]

theorem clearing_registersReset {s : State} (hw : s.cfg.wf = true) (j : Nat) (rest : List Input) :
    Claims.RegistersReset s.cfg (s.clearing j rest) :=
  registersReset_of_frame hw rfl rfl
    (spiTx_of_no_wait fun _ hop => waits_of_mem_zeroWrites (List.mem_of_mem_drop hop))

/-- The completed clear leaves the empty buffer: what is below the limit is zeroed and nothing is held above. -/
theorem cleared_buf {m : Memory} (hm : Memory.wf m = true) (limit : Nat) :
    Memory.writes (Memory.below m limit) (zeroBytes limit) = [] := by
  have hbelow := Memory.below_wf limit hm
  refine Memory.ext_of_reads (Memory.writes_wf _ hbelow) rfl fun a => ?_
  rw [read_zeroed hbelow, Memory.read_below]
  split <;> rfl

/-- With every byte cleared, the next tick ends the reset where the one-step reset ends. -/
theorem step_clearing_end {s : State} (b : Bool) (rest : List Input) (hw : s.cfg.wf = true)
    (hbuf : Memory.wf s.buf = true) :
    step (s.clearing (3 * (resetCount s.cfg).toNat) (.tick b :: rest)) =
      .next (State.resetDone { s with inputs := rest }) := by
  have hdone : (zeroWrites (resetCount s.cfg).toNat).drop (3 * (resetCount s.cfg).toNat) = [] :=
    List.drop_eq_nil_of_le (length_zeroWrites _).le
  have hend : tick b (s.clearing (3 * (resetCount s.cfg).toNat) rest) =
      .next ((s.clearing (3 * (resetCount s.cfg).toNat) rest).finish none) :=
    tick_end (f := ⟨false, _, _, none⟩) rfl hdone
  refine (step_input (s := s.clearing _ _) hw rfl).trans (hend.trans ?_)
  simp only [State.finish, State.clearing, resetEdge_buf, cleared_buf hbuf]
  rfl

/-- The edge of a reset, one tick a byte and one to end are the one-step reset. -/
theorem run_rst_to_done {s : State} {readies : List Bool} {rest : List Input} (hw : s.cfg.wf = true)
    (hbuf : Memory.wf s.buf = true) (hin : s.inputs = .rst :: (readies.map .tick ++ rest))
    (hlen : readies.length = 3 * (resetCount s.cfg).toNat + 1) :
    Sys2Proof.core.run (3 * (resetCount s.cfg).toNat + 2) s = .next (State.resetDone { s with inputs := rest }) := by
  obtain ⟨front, last, rfl⟩ : ∃ front last, readies = front ++ [last] :=
    ⟨_, _, (List.dropLast_append_getLast (List.ne_nil_of_length_eq_add_one hlen)).symm⟩
  have hfront : front.length = 3 * (resetCount s.cfg).toNat := by simpa using hlen
  have hrun := run_rst_ticks (readies := front) (rest := .tick last :: rest) hw (by simpa using hin) hfront.le
  rw [hfront] at hrun
  exact (run_add (b := 1) hrun).trans ((run_one _).trans (step_clearing_end last rest hw hbuf))

theorem resetDone_registersReset {s : State} (hw : s.cfg.wf = true) (rest : List Input) :
    Claims.RegistersReset s.cfg (State.resetDone { s with inputs := rest }) :=
  registersReset_of_frame hw rfl rfl rfl

/-- A completed reset leaves the block ready, unless a reset is next (R27). -/
theorem resetDone_cmdReady (s : State) {rest : List Input} (h : ¬ Claims.resetNext rest) :
    (State.resetDone { s with inputs := rest }).cmdReady = true := by
  refine cmdReady_iff.mpr ⟨rfl, ?_⟩
  rw [← Bool.not_eq_true, ← resetNext_iff]
  exact h

theorem resetOf_inv {p : Config.Params} (h : p.wf = true) : Inv (State.resetOf p) :=
  inv_reshell (s := State.resetOf p) (e := .idle) (sound_resetOf h rfl (by simp)) (by simp [Engine.pending]) rfl
    (outputsMatch_resetOf p) none [.reset] [] []

/-! ### A step takes one input (log entry 2) -/

theorem react_inputs {inp : Input} {s t : State} (h : react inp s = .next t) : t.inputs = s.inputs := by
  cases inp with
  | command w =>
    cases hb : s.busy with
    | true => rw [react_command_busy hb] at h; cases h; rfl
    | false =>
      rw [react_command_ready hb, runWord_eq_plan] at h
      obtain ⟨u, hu, rfl⟩ := Plan.run_next h
      rw [runOps_frame hu]; rfl
  | accept w =>
    cases hb : s.busy with
    | true => rw [react_accept_busy hb] at h; cases h; rfl
    | false => rw [react_accept_ready hb] at h; cases h; rfl
  | tick b =>
    have ht : tick b s = .next t := h
    rcases tick_cases b s with
      ⟨-, hq⟩ | ⟨f, -, ⟨-, hend⟩ | ⟨op, ops, -, ⟨-, -, hwait⟩ | ⟨u, hu, hdone⟩ | ⟨e, -, hfault⟩⟩⟩
    · rw [hq] at ht; cases ht; rfl
    · rw [hend] at ht; cases ht; cases f.answer <;> rfl
    · rw [hwait] at ht; cases ht; rfl
    · rw [hdone] at ht; cases ht; rw [applyOp_frame hu]
    · rw [hfault] at ht; cases ht
  | reset => cases h; rfl
  | rst => cases h; rfl

theorem step_takes_input {s t : State} {inp : Input} {rest : List Input} (hin : s.inputs = inp :: rest)
    (h : step s = .next t) : t.inputs = rest := by
  obtain ⟨-, ⟨hnil, -⟩ | ⟨inp', rest', hin', hr⟩⟩ := step_cases h
  · rw [hin] at hnil; cases hnil
  · rw [hin] at hin'; cases hin'
    exact react_inputs hr

/-! ### A reset while a command executes (R125) -/

/-- Whatever the inputs before it, an edge with `rst` = 1 leaves the values of R119, and no response is taken back. -/
theorem run_ending_in_rst {front : List Input} {s t : State} (hin : s.inputs = front ++ [.rst])
    (h : Sys2Proof.core.run (front.length + 1) s = .next t) : Claims.RegistersReset s.cfg t ∧ s.rsp <+: t.rsp := by
  induction front generalizing s with
  | nil =>
    have hstep : step s = .next t := (run_one s).symm.trans h
    obtain ⟨hw, -⟩ := step_cases hstep
    obtain ⟨u, hu, hrsp, hreg⟩ := step_reset hw hin (.inl rfl)
    rw [hu] at hstep; cases hstep
    exact ⟨hreg, hrsp ▸ List.prefix_rfl⟩
  | cons inp front ih =>
    rw [List.length_cons, run_succ] at h
    cases hs : step s with
    | next u =>
      rw [hs] at h
      have hc := step_continues hs
      obtain ⟨hreg, hrsp⟩ := ih (step_takes_input hin hs) h
      exact ⟨hc.cfg ▸ hreg, hc.rsp.trans hrsp⟩
    | fault f => rw [hs] at h; cases h
    | refused r => rw [hs] at h; cases h

/-- An effect traces at most one event, so each beginning of the events is what some of the first effects trace. -/
theorem exists_take_of_prefix_opEvents {part : List OutEvent} {ops : List MicroOp} (h : part <+: opEvents ops) :
    ∃ j ≤ ops.length, opEvents (ops.take j) = part := by
  induction ops generalizing part with
  | nil => exact ⟨0, le_rfl, (List.prefix_nil.mp h).symm⟩
  | cons op ops ih =>
    rcases part with _ | ⟨e, part⟩
    · exact ⟨0, Nat.zero_le _, rfl⟩
    · have hone : op.events = [] ∨ ∃ e, op.events = [e] := by cases op <;> simp [MicroOp.events]
      rcases hone with hnone | ⟨e', hsome⟩
      · rw [opEvents_cons, hnone, List.nil_append] at h
        obtain ⟨j, hj, hpart⟩ := ih h
        exact ⟨j + 1, Nat.succ_le_succ hj, by rw [List.take_succ_cons, opEvents_cons, hnone, hpart]; rfl⟩
      · rw [opEvents_cons, hsome, List.singleton_append, List.cons_prefix_cons] at h
        obtain ⟨rfl, htail⟩ := h
        obtain ⟨j, hj, hpart⟩ := ih htail
        exact ⟨j + 1, Nat.succ_le_succ hj, by rw [List.take_succ_cons, opEvents_cons, hsome, hpart]; rfl⟩

theorem opEvents_take_prefix (j : Nat) (ops : List MicroOp) : opEvents (ops.take j) <+: opEvents ops := by
  conv_rhs => rw [← List.take_append_drop j ops, opEvents_append]
  exact List.prefix_append _ _

/-- A word accepted, its first `j` effects done, and a reset: their events are traced, and no response. -/
theorem run_accept_then_rst {s : State} {w : Word} {j : Nat} (hinv : Inv s) (hb : s.busy = false)
    (hj : j ≤ (planWord w s).ops.length) :
    ∃ t, Sys2Proof.core.run (j + 2) { s with inputs := .accept w :: (List.replicate j (.tick true) ++ [.rst]) } = .next t ∧
      t.wire = s.wire ++ (opEvents ((planWord w s).ops.take j)).map .out ++ [.reset] ∧ t.rsp = s.rsp := by
  obtain ⟨u, hu, hrun⟩ := run_accept_take (w := w) (readies := List.replicate j true) [.rst] hinv hb hj
    List.length_replicate (.inl fun x hx => List.eq_of_mem_replicate hx)
  rw [List.map_replicate] at hrun
  have huf := runOps_frame hu
  have hwu : u.cfg.wf = true := by rw [huf]; exact hinv.sound.params
  have hwire : u.wire = s.wire ++ (opEvents ((planWord w s).ops.take j)).map .out := by rw [huf]
  have hrst := step_with_input (s := u.inFlight s (.running (flightOf w s j ((planWord w s).ops.drop j))) []) .rst [] hwu
  exact ⟨_, (run_add (b := 1) hrun).trans ((run_one _).trans hrst), (congrArg (· ++ [.reset]) hwire :), rfl⟩

/-- A word accepted, more ticks than it has effects, and a reset: its response came before the reset. -/
theorem rsp_grows_of_late_rst {s t : State} {w : Word} {j : Nat} (hinv : Inv s) (hb : s.busy = false)
    (hj : (planWord w s).ops.length < j)
    (h : Sys2Proof.core.run (j + 2) { s with inputs := .accept w :: (List.replicate j (.tick true) ++ [.rst]) } = .next t) :
    s.rsp ++ [(planWord w s).answer] <+: t.rsp := by
  obtain ⟨m, rfl⟩ : ∃ m, j = (planWord w s).ops.length + 1 + m := Nat.exists_eq_add_of_le hj
  obtain ⟨u, hu⟩ := runOps_planWord_ok w hinv.sound.selection
  have hanswered := run_accept_to_response (readies := List.replicate ((planWord w s).ops.length + 1) true)
    (rest := List.replicate m (.tick true) ++ [.rst]) hinv.sound.params hb hu List.length_replicate
    (.inl fun x hx => List.eq_of_mem_replicate hx)
  rw [List.map_replicate, ← List.append_assoc, List.replicate_append_replicate] at hanswered
  have hsteps : (planWord w s).ops.length + 1 + m + 2 =
      (planWord w s).ops.length + 2 + ((List.replicate m (Input.tick true)).length + 1) := by
    rw [List.length_replicate]; omega
  rw [hsteps, run_add hanswered] at h
  exact (run_ending_in_rst rfl h).2

/-! ### A peripheral that is not ready (R126) -/

/-- A tick without `spi_tx_ready` and a word presented change nothing while a byte waits for its peripheral. -/
theorem step_stalled {s : State} {k x : Byte} {inp : Input} {rest : List Input} (hw : s.cfg.wf = true)
    (hx : s.spiTx = some (k, x)) (hin : s.inputs = inp :: rest)
    (hinp : inp = .tick false ∨ ∃ w, inp = .command w ∨ inp = .accept w) :
    step s = .next { s with inputs := rest } := by
  obtain ⟨f, ops, he, hp⟩ := flight_of_spiTx hx
  have hb : State.busy { s with inputs := rest } = true := by simp [State.busy, he]
  rw [step_input hw hin]
  rcases hinp with rfl | ⟨w, rfl | rfl⟩
  · exact tick_wait (s := { s with inputs := rest }) he hp rfl
  · exact react_command_busy hb
  · exact react_accept_busy hb

theorem run_stalled {s : State} {k x : Byte} {inputs : List Input} (hw : s.cfg.wf = true)
    (hx : s.spiTx = some (k, x)) (hin : s.inputs = inputs)
    (hall : ∀ inp ∈ inputs, inp = .tick false ∨ ∃ w, inp = .command w ∨ inp = .accept w) :
    Sys2Proof.core.run inputs.length s = .next { s with inputs := [] } := by
  induction inputs generalizing s with
  | nil => exact (run_zero s).trans (by rw [← hin])
  | cons inp rest ih =>
    obtain ⟨hinp, hrest⟩ := List.forall_mem_cons.mp hall
    rw [List.length_cons, run_succ_next (step_stalled hw hx hin hinp)]
    exact ih (s := { s with inputs := rest }) hw hx rfl hrest

end Sys2Proof.Machine

namespace Sys2Proof.Claims

open Sys2Proof Sys2Proof.Machine

/-- Settles O13: with no input left there is nothing to react to. -/
theorem blockWaitsForItsFirstCommand : Obligations.BlockWaitsForItsFirstCommand := fun _ => step_idle

/-- Settles O46: reset leaves N within N_MAX, TX_INIT selected, an empty buffer, and every output off with ACTIVE = 0. -/
theorem invAtReset : Obligations.InvAtReset :=
  ⟨fun _ hp => resetOf_inv hp, resetOf_inv (by decide)⟩

/-- Settles O43: the edge and the completed reset are each one reaction to an input, with the values of R119. -/
theorem resetLeavesTheStatedValues : Obligations.ResetLeavesTheStatedValues := by
  refine ⟨fun p hp => ⟨registersReset_of_frame hp rfl rfl rfl, rfl, fun _ => rfl⟩, fun s rest hw => ⟨?edge, ?done⟩⟩
  case edge =>
    exact ⟨_, step_with_input .rst rest hw, registersReset_of_frame hw rfl rfl (resetEdge_spiTx _), rfl,
      cmdReady_of_busy rfl, rfl, rfl, rfl⟩
  case done =>
    exact ⟨_, step_with_input .reset rest hw, resetDone_registersReset hw rest, rfl, resetDone_cmdReady s, fun _ => rfl,
      rfl, rfl, rfl⟩

/-- Settles O44: `k` steps are the edge and `k - 1` bytes of the clear, which write the buffer only. -/
theorem resetGivesTheStatedValues : Obligations.ResetGivesTheStatedValues := by
  intro s readies count hw hbuf hcount hlen hin
  rw [← resetCount_toNat hw] at hcount
  subst hcount
  refine ⟨fun k hk1 hk2 => ?during, ?done⟩
  case during =>
    obtain ⟨j, rfl⟩ : ∃ j, k = j + 1 := ⟨k - 1, by omega⟩
    have htake : (readies.take j).length = j := List.length_take_of_le (by omega)
    have hsplit : s.inputs = .rst :: ((readies.take j).map .tick ++ (readies.drop j).map .tick) := by
      rw [hin, ← List.map_append, List.take_append_drop]
    have hrun := run_rst_ticks hw hsplit (by omega)
    rw [htake] at hrun
    exact ⟨_, hrun, clearing_registersReset hw _ _, rfl, cmdReady_of_busy rfl, rfl, rfl, rfl⟩
  case done =>
    have hrun := run_rst_to_done (rest := []) hw hbuf (by rw [hin, List.append_nil]) hlen
    exact ⟨_, hrun, resetDone_registersReset hw [], rfl, rfl, fun _ => rfl, rfl, rfl, rfl⟩

/-- Settles O45: 3N + 1 ticks after the edge the buffer is the empty list, as the one-step reset leaves it. -/
theorem resetStepIsEdgeAndClear : Obligations.ResetStepIsEdgeAndClear := by
  intro s rest hw hbuf
  refine ⟨3 * (resetCount s.cfg).toNat + 1, _, step_with_input .reset rest hw, resetDone_registersReset hw rest, rfl,
    resetDone_cmdReady s, fun _ => rfl, rfl, rfl, ?_⟩
  have hticks : List.replicate (3 * (resetCount s.cfg).toNat + 1) (Input.tick false) ++ rest =
      (List.replicate (3 * (resetCount s.cfg).toNat + 1) false).map .tick ++ rest := by rw [List.map_replicate]
  exact run_rst_to_done (s := { s with inputs := .rst :: (_ ++ rest) }) hw hbuf (congrArg _ hticks) List.length_replicate

/-- Settles O53: the word's plan traces its events one effect at a time, so a reset after `j` ticks leaves the events of the
first `j` effects; with more ticks than effects the response is traced before the reset. -/
theorem resetAdmitsEveryPrefix : Obligations.ResetAdmitsEveryPrefix := by
  intro s w hinv hb
  obtain ⟨u, hu⟩ := runOps_planWord_ok w hinv.sound.selection
  have hwire : u.wire = s.wire ++ (opEvents (planWord w s).ops).map .out := by rw [runOps_frame hu]
  have hreset : ∀ (j : Nat) (t : State),
      run (j + 2) { s with inputs := .accept w :: (List.replicate j (.tick true) ++ [.rst]) } = .next t →
      RegistersReset s.cfg t := fun j t ht => by
    have hlast := run_ending_in_rst (front := .accept w :: List.replicate j (.tick true)) (t := t)
      (s := { s with inputs := .accept w :: (List.replicate j (.tick true) ++ [.rst]) }) rfl
    rw [List.length_cons, List.length_replicate] at hlast
    exact (hlast ht).1
  refine ⟨opEvents (planWord w s).ops, _, step_command [] hinv.sound.params hb hu, hwire, fun part hpart => ?admitted,
    fun j t ht => ⟨hreset j t ht, fun hrsp => ?only⟩⟩
  case admitted =>
    obtain ⟨j, hj, rfl⟩ := exists_take_of_prefix_opEvents hpart
    obtain ⟨t, ht, htwire, htrsp⟩ := run_accept_then_rst hinv hb hj
    exact ⟨j, t, ht, htwire, htrsp, hreset j t ht⟩
  case only =>
    by_cases hj : j ≤ (planWord w s).ops.length
    · obtain ⟨t', ht', htwire, -⟩ := run_accept_then_rst hinv hb hj
      obtain rfl : t' = t := Host.Outcome.next.inj (ht'.symm.trans ht)
      exact ⟨_, opEvents_take_prefix j _, htwire⟩
    · have hgrown := (rsp_grows_of_late_rst hinv hb (Nat.lt_of_not_le hj) ht).length_le
      rw [hrsp, List.length_append, List.length_singleton] at hgrown
      omega

/-- Settles O54: the byte presented is the next effect and BUSY is 1, so neither such a tick nor a word does anything; a
reset drops the flight. -/
theorem stalledShowIsStuckUntilReset : Obligations.StalledShowIsStuckUntilReset := by
  intro s k x hw hx
  exact ⟨run_stalled hw hx rfl, fun rest => ⟨_, step_with_input .reset rest hw, rfl, resetDone_cmdReady s, rfl⟩⟩

end Sys2Proof.Claims
